-- ==== Sys2Proof/Word.lean ====
section
/-!
DEFINITION. The word types of the CHIP-8 core (00_scope.md R8, 10_state.md R20, R24, R25, R30).
All values are unsigned; `BitVec` addition and subtraction are the `wrap8` and `wrap16` of R9.
-/

namespace Sys2Proof

/-- An 8-bit value: a general register, a timer, a byte of memory (R8, R20). -/
abbrev Byte := BitVec 8

/-- A 16-bit value: I, PC, a stack entry, an opcode (R8, R24, R25, R70). -/
abbrev Word := BitVec 16

/-- The index of a general register V0..VF (R20). -/
abbrev Reg := Fin 16

/-- The index of an input-latch entry 0x0..0xF (R29). -/
abbrev Key := Fin 16

/-- VF, the general register that is also the flag (R21). -/
abbrev regF : Reg := 15

/-- The framebuffer as its 32 rows of 64 pixels; bit x of row y is FB[y*64 + x] (R30).
DESIGN CHOICE (log 7): rows instead of one flat sequence of 2048 bits; safe. -/
abbrev Framebuffer := Vector (BitVec 64) 32

/-- `zext_16` of a 12-bit field (R73). -/
def zext16 (nnn : BitVec 12) : Word := nnn.setWidth 16

end Sys2Proof
end

