-- ==== Sys2Proof/Config.lean ====
section
/-!
DEFINITION. The implementation parameters of 00_scope.md R6 at the values this hardware takes, and the one
free value the spec leaves open (the random byte, 43_alu.md R143).
-/

namespace Sys2Proof

/-- What an address of 4096 or more, or a key index of 16 or more, does (R6, R56, R180). -/
inductive OobPolicy where
  | halt
  | wrap
  deriving DecidableEq, Repr

/-- When a flag-writing operation reads the operands of its result (R6, R131). -/
inductive FlagOperandMode where
  | latched
  | sequential
  deriving DecidableEq, Repr

namespace Config

/-- Bytes of memory (R6, R50). -/
abbrev memSize : Nat := 4096
/-- Location of the glyph table (R6, R51). -/
abbrev glyphBase : Nat := 0
/-- Bytes of the glyph table (R6, R51). -/
abbrev glyphSize : Nat := 80
/-- Program load address and initial PC (R6, R52). -/
abbrev progBase : Nat := 0x200
/-- Largest program length in bytes (R6, R52). -/
abbrev progMax : Nat := 3584
/-- General registers (R6). -/
abbrev nregs : Nat := 16
/-- Call-stack capacity (R6, R26; unaudited literal, log 14). -/
abbrev stackDepth : Nat := 12
/-- Input latch entries (R6, R29). -/
abbrev nkeys : Nat := 16
/-- Framebuffer width in pixels (R6, R30). -/
abbrev width : Nat := 64
/-- Framebuffer height in pixels (R6, R30). -/
abbrev height : Nat := 32
/-- Timer steps per second, a wall-clock rate that no rule reads (R6, R7). -/
abbrev timerHz : Nat := 60
/-- Target instructions per second, a wall-clock rate that no rule reads (R6, R7). -/
abbrev ips : Nat := 700
/-- Cycles of one controller tick (R6, R226; the spec's decision D11, log 14). -/
abbrev cyclesPerTick : Nat := 12
/-- This hardware's reading of out-of-range accesses (R6, R56; the spec's decision D4, log 13). -/
abbrev oobPolicy : OobPolicy := .halt
/-- This hardware's operand read time (R6, R131; the spec's decision D3, log 13). -/
abbrev flagOperandMode : FlagOperandMode := .latched

/-- FREE VALUE (log 4): the byte the `rand8` input gives at the n-th draw when State lists none (R12, R143).
Nothing constrains it. -/
opaque rand8 : Nat → Byte

end Config

end Sys2Proof
end

