-- ==== Sys2Proof/Syntax.lean ====
section
/-!
DEFINITION. The 34 instructions of 30_encoding.md R76, one constructor per row of the opcode table.
Operands are the fields of R71, with registers as indexes and the row count of DXYN as a number.
-/

namespace Sys2Proof

/-- The instruction set (R76). Each constructor's comment gives the row's pattern and its rule. -/
inductive Instr where
  /-- 00E0, R100. -/
  | cls
  /-- 00EE, R110. -/
  | ret
  /-- 1NNN, R111. -/
  | jp (nnn : BitVec 12)
  /-- 2NNN, R112. -/
  | call (nnn : BitVec 12)
  /-- 3XNN, R113. -/
  | seImm (x : Reg) (nn : Byte)
  /-- 4XNN, R114. -/
  | sneImm (x : Reg) (nn : Byte)
  /-- 5XY0, R115. -/
  | seReg (x y : Reg)
  /-- 6XNN, R132. -/
  | ldImm (x : Reg) (nn : Byte)
  /-- 7XNN, R133. -/
  | addImm (x : Reg) (nn : Byte)
  /-- 8XY0, R134. -/
  | ldReg (x y : Reg)
  /-- 8XY1, R135. -/
  | orReg (x y : Reg)
  /-- 8XY2, R136. -/
  | andReg (x y : Reg)
  /-- 8XY3, R137. -/
  | xorReg (x y : Reg)
  /-- 8XY4, R138. -/
  | addReg (x y : Reg)
  /-- 8XY5, R139. -/
  | sub (x y : Reg)
  /-- 8XY6, R140; Y is encoded and not read. -/
  | shr (x y : Reg)
  /-- 8XY7, R141. -/
  | subn (x y : Reg)
  /-- 8XYE, R142; Y is encoded and not read. -/
  | shl (x y : Reg)
  /-- 9XY0, R116. -/
  | sneReg (x y : Reg)
  /-- ANNN, R160. -/
  | ldI (nnn : BitVec 12)
  /-- BNNN, R117. -/
  | jpV0 (nnn : BitVec 12)
  /-- CXNN, R143. -/
  | rnd (x : Reg) (nn : Byte)
  /-- DXYN, R101; n is the row count. -/
  | drw (x y : Reg) (n : Nat)
  /-- EX9E, R181. -/
  | skp (x : Reg)
  /-- EXA1, R182. -/
  | sknp (x : Reg)
  /-- FX07, R183. -/
  | ldVxDt (x : Reg)
  /-- FX0A, R186. -/
  | ldVxK (x : Reg)
  /-- FX15, R184. -/
  | ldDt (x : Reg)
  /-- FX18, R185. -/
  | ldSt (x : Reg)
  /-- FX1E, R161. -/
  | addI (x : Reg)
  /-- FX29, R162. -/
  | ldF (x : Reg)
  /-- FX33, R163. -/
  | ldB (x : Reg)
  /-- FX55, R164. -/
  | ldMemVx (x : Reg)
  /-- FX65, R165. -/
  | ldVxMem (x : Reg)
  deriving DecidableEq, Repr

end Sys2Proof
end

