-- ==== Sys2Proof/WellFormed.lean ====
section
/-!
DEFINITION. Well-formed instructions and program images: the bounds the operand types do not carry themselves.
Register indexes, NN and NNN are bounded by their types (30_encoding.md R73).
-/

namespace Sys2Proof

/-- An instruction is well formed when its operands fit their fields: only the row count of DXYN,
"an unsigned 4-bit row count, 0..15" (R73), is a plain number that could be too large. -/
def Instr.wellFormed : Instr → Bool
  | .drw _ _ n => decide (n < 16)
  | .cls | .ret | .jp _ | .call _ | .seImm _ _ | .sneImm _ _ | .seReg _ _ | .ldImm _ _ | .addImm _ _
  | .ldReg _ _ | .orReg _ _ | .andReg _ _ | .xorReg _ _ | .addReg _ _ | .sub _ _ | .shr _ _ | .subn _ _
  | .shl _ _ | .sneReg _ _ | .ldI _ | .jpV0 _ | .rnd _ _ | .skp _ | .sknp _ | .ldVxDt _ | .ldVxK _
  | .ldDt _ | .ldSt _ | .addI _ | .ldF _ | .ldB _ | .ldMemVx _ | .ldVxMem _ => true

/-- A program image fits when its length is at most `PROG_MAX` (R52, R241, R242). -/
def programFits (prog : List Byte) : Bool := decide (prog.length ≤ Config.progMax)

end Sys2Proof
end

