-- ==== Sys2Proof/Decode.lean ====
section
/-!
DEFINITION. Decoding and encoding of the 34 opcodes (30_encoding.md R70 to R81).
Decoding is total (R74); an opcode outside the table is rejected with the name of its group (R77).
-/

namespace Sys2Proof

/-- Why the decoder gives no instruction: the groups of R77 that have unimplemented opcodes, and a byte
sequence that ends before the second byte of an opcode (R70). -/
inductive DecodeReject where
  /-- 0NNN other than 00E0 and 00EE. -/
  | unimplementedGroup0
  /-- 5XYn with n not 0. -/
  | unimplementedGroup5
  /-- 8XYn with n in 8..D or F. -/
  | unimplementedGroup8
  /-- 9XYn with n not 0. -/
  | unimplementedGroup9
  /-- EXnn with nn not 9E or A1. -/
  | unimplementedGroupE
  /-- FXnn with nn not one of the nine. -/
  | unimplementedGroupF
  /-- Fewer than two bytes. -/
  | truncated
  deriving DecidableEq, Repr

/-- The group, op[15:12] (R71). -/
def fieldG (op : Word) : BitVec 4 := op.extractLsb' 12 4

/-- The first register index, op[11:8] (R71). -/
def fieldX (op : Word) : Reg := (op.extractLsb' 8 4).toFin

/-- The second register index, op[7:4] (R71). -/
def fieldY (op : Word) : Reg := (op.extractLsb' 4 4).toFin

/-- The 4-bit immediate and sub-op discriminant, op[3:0] (R71). -/
def fieldN (op : Word) : BitVec 4 := op.extractLsb' 0 4

/-- The 8-bit immediate, op[7:0] (R71). -/
def fieldNN (op : Word) : Byte := op.extractLsb' 0 8

/-- The 12-bit address or constant, op[11:0] (R71). -/
def fieldNNN (op : Word) : BitVec 12 := op.extractLsb' 0 12

/-- Group 0: the secondary discriminant is the whole opcode (R75). -/
def decodeGroup0 (op : Word) : Except DecodeReject Instr :=
  match op.toNat with
  | 0x00E0 => .ok .cls
  | 0x00EE => .ok .ret
  | _ => .error .unimplementedGroup0

/-- Group 5: only 5XY0 is in the table (R75, the spec's decision D8). -/
def decodeGroup5 (op : Word) : Except DecodeReject Instr :=
  match (fieldN op).toNat with
  | 0x0 => .ok (.seReg (fieldX op) (fieldY op))
  | _ => .error .unimplementedGroup5

/-- Group 8: the secondary discriminant is op[3:0] (R75). -/
def decodeGroup8 (op : Word) : Except DecodeReject Instr :=
  match (fieldN op).toNat with
  | 0x0 => .ok (.ldReg (fieldX op) (fieldY op))
  | 0x1 => .ok (.orReg (fieldX op) (fieldY op))
  | 0x2 => .ok (.andReg (fieldX op) (fieldY op))
  | 0x3 => .ok (.xorReg (fieldX op) (fieldY op))
  | 0x4 => .ok (.addReg (fieldX op) (fieldY op))
  | 0x5 => .ok (.sub (fieldX op) (fieldY op))
  | 0x6 => .ok (.shr (fieldX op) (fieldY op))
  | 0x7 => .ok (.subn (fieldX op) (fieldY op))
  | 0xE => .ok (.shl (fieldX op) (fieldY op))
  | _ => .error .unimplementedGroup8

/-- Group 9: only 9XY0 is in the table (R75, the spec's decision D8). -/
def decodeGroup9 (op : Word) : Except DecodeReject Instr :=
  match (fieldN op).toNat with
  | 0x0 => .ok (.sneReg (fieldX op) (fieldY op))
  | _ => .error .unimplementedGroup9

/-- Group E: the secondary discriminant is op[7:0] (R75). -/
def decodeGroupE (op : Word) : Except DecodeReject Instr :=
  match (fieldNN op).toNat with
  | 0x9E => .ok (.skp (fieldX op))
  | 0xA1 => .ok (.sknp (fieldX op))
  | _ => .error .unimplementedGroupE

/-- Group F: the secondary discriminant is op[7:0] (R75). -/
def decodeGroupF (op : Word) : Except DecodeReject Instr :=
  match (fieldNN op).toNat with
  | 0x07 => .ok (.ldVxDt (fieldX op))
  | 0x0A => .ok (.ldVxK (fieldX op))
  | 0x15 => .ok (.ldDt (fieldX op))
  | 0x18 => .ok (.ldSt (fieldX op))
  | 0x1E => .ok (.addI (fieldX op))
  | 0x29 => .ok (.ldF (fieldX op))
  | 0x33 => .ok (.ldB (fieldX op))
  | 0x55 => .ok (.ldMemVx (fieldX op))
  | 0x65 => .ok (.ldVxMem (fieldX op))
  | _ => .error .unimplementedGroupF

/-- The decoder: dispatch first on the top 4 bits, then on the group's secondary discriminant (R75, R76).
The last arm is group 0xF, the only value a 4-bit group has left. -/
def decode (op : Word) : Except DecodeReject Instr :=
  match (fieldG op).toNat with
  | 0x0 => decodeGroup0 op
  | 0x1 => .ok (.jp (fieldNNN op))
  | 0x2 => .ok (.call (fieldNNN op))
  | 0x3 => .ok (.seImm (fieldX op) (fieldNN op))
  | 0x4 => .ok (.sneImm (fieldX op) (fieldNN op))
  | 0x5 => decodeGroup5 op
  | 0x6 => .ok (.ldImm (fieldX op) (fieldNN op))
  | 0x7 => .ok (.addImm (fieldX op) (fieldNN op))
  | 0x8 => decodeGroup8 op
  | 0x9 => decodeGroup9 op
  | 0xA => .ok (.ldI (fieldNNN op))
  | 0xB => .ok (.jpV0 (fieldNNN op))
  | 0xC => .ok (.rnd (fieldX op) (fieldNN op))
  | 0xD => .ok (.drw (fieldX op) (fieldY op) (fieldN op).toNat)
  | 0xE => decodeGroupE op
  | _ => decodeGroupF op

/-- The opcode of two consecutive bytes, the byte at the lower address high (20_memory.md R53). -/
def wordOfBytes (hi lo : Byte) : Word := hi ++ lo

/-- The high byte of an opcode, stored at the lower address (20_memory.md R53). -/
def highByte (op : Word) : Byte := op.extractLsb' 8 8

/-- The low byte of an opcode (20_memory.md R53). -/
def lowByte (op : Word) : Byte := op.extractLsb' 0 8

/-- Decoding from bytes: the instruction of the first two and the bytes after it (R70). -/
def decodeBytes : List Byte → Except DecodeReject (Instr × List Byte)
  | hi :: lo :: rest =>
    match decode (wordOfBytes hi lo) with
    | .ok i => .ok (i, rest)
    | .error e => .error e
  | [_] => .error .truncated
  | [] => .error .truncated

/-- A register index as its 4-bit field (R71). -/
def regField (r : Reg) : BitVec 4 := BitVec.ofFin r

/-- An opcode of four hexadecimal digits, most significant first, as the patterns of R8 write it. -/
def digits (g x y n : BitVec 4) : Word := g ++ x ++ y ++ n

/-- An opcode of the format `xnn` (R72). -/
def digitsXNN (g : BitVec 4) (x : Reg) (nn : Byte) : Word := g ++ regField x ++ nn

/-- An opcode of the format `nnn` (R72). -/
def digitsNNN (g : BitVec 4) (nnn : BitVec 12) : Word := g ++ nnn

/-- The word of an instruction, written from the patterns of the opcode table (R76, R81). -/
def encode : Instr → Word
  | .cls => 0x00E0#16
  | .ret => 0x00EE#16
  | .jp nnn => digitsNNN 0x1 nnn
  | .call nnn => digitsNNN 0x2 nnn
  | .seImm x nn => digitsXNN 0x3 x nn
  | .sneImm x nn => digitsXNN 0x4 x nn
  | .seReg x y => digits 0x5 (regField x) (regField y) 0x0
  | .ldImm x nn => digitsXNN 0x6 x nn
  | .addImm x nn => digitsXNN 0x7 x nn
  | .ldReg x y => digits 0x8 (regField x) (regField y) 0x0
  | .orReg x y => digits 0x8 (regField x) (regField y) 0x1
  | .andReg x y => digits 0x8 (regField x) (regField y) 0x2
  | .xorReg x y => digits 0x8 (regField x) (regField y) 0x3
  | .addReg x y => digits 0x8 (regField x) (regField y) 0x4
  | .sub x y => digits 0x8 (regField x) (regField y) 0x5
  | .shr x y => digits 0x8 (regField x) (regField y) 0x6
  | .subn x y => digits 0x8 (regField x) (regField y) 0x7
  | .shl x y => digits 0x8 (regField x) (regField y) 0xE
  | .sneReg x y => digits 0x9 (regField x) (regField y) 0x0
  | .ldI nnn => digitsNNN 0xA nnn
  | .jpV0 nnn => digitsNNN 0xB nnn
  | .rnd x nn => digitsXNN 0xC x nn
  | .drw x y n => digits 0xD (regField x) (regField y) (BitVec.ofNat 4 n)
  | .skp x => digitsXNN 0xE x 0x9E
  | .sknp x => digitsXNN 0xE x 0xA1
  | .ldVxDt x => digitsXNN 0xF x 0x07
  | .ldVxK x => digitsXNN 0xF x 0x0A
  | .ldDt x => digitsXNN 0xF x 0x15
  | .ldSt x => digitsXNN 0xF x 0x18
  | .addI x => digitsXNN 0xF x 0x1E
  | .ldF x => digitsXNN 0xF x 0x29
  | .ldB x => digitsXNN 0xF x 0x33
  | .ldMemVx x => digitsXNN 0xF x 0x55
  | .ldVxMem x => digitsXNN 0xF x 0x65

/-- The bytes of an instruction, as memory holds them (20_memory.md R53). -/
def encodeBytes (i : Instr) : List Byte := [highByte (encode i), lowByte (encode i)]

/-- The 16-bit word the host numbers: the low `nbits` bits of w, everything above them 0. -/
def tableWord (nbits w : Nat) : Word := BitVec.ofNat 16 (w % 2 ^ nbits)

/-- The instruction the decoder reads from the word w of the opcode table, laid out as the hardware stores it. -/
def decodeTableWord (nbits w : Nat) : Option Instr :=
  match decodeBytes [highByte (tableWord nbits w), lowByte (tableWord nbits w)] with
  | .ok (i, _) => some i
  | .error _ => none

end Sys2Proof
end

