-- ==== Sys2Proof/Machine/Memory.lean ====
section
/-!
DEFINITION. Memory: one flat space of 4096 bytes (20_memory.md R50) as a list of the cells that differ from
what they hold at creation before a program is loaded (R51, R52), in one canonical form.
-/

namespace Sys2Proof.Machine

/-- The 16 glyphs of 5 bytes (R51). PRESUMED by the spec itself, "from general knowledge, not in source" (log 6). -/
def glyphTable : List Byte :=
  [0xF0, 0x90, 0x90, 0x90, 0xF0] ++ [0x20, 0x60, 0x20, 0x20, 0x70] ++ [0xF0, 0x10, 0xF0, 0x80, 0xF0] ++
  [0xF0, 0x10, 0xF0, 0x10, 0xF0] ++ [0x90, 0x90, 0xF0, 0x10, 0x10] ++ [0xF0, 0x80, 0xF0, 0x10, 0xF0] ++
  [0xF0, 0x80, 0xF0, 0x90, 0xF0] ++ [0xF0, 0x10, 0x20, 0x40, 0x40] ++ [0xF0, 0x90, 0xF0, 0x90, 0xF0] ++
  [0xF0, 0x90, 0xF0, 0x10, 0xF0] ++ [0xF0, 0x90, 0xF0, 0x90, 0x90] ++ [0xE0, 0x90, 0xE0, 0x90, 0xE0] ++
  [0xF0, 0x80, 0x80, 0x80, 0xF0] ++ [0xE0, 0x90, 0x90, 0x90, 0xE0] ++ [0xF0, 0x80, 0xF0, 0x80, 0xF0] ++
  [0xF0, 0x80, 0xF0, 0x80, 0x80]

/-- What an unlisted address reads as: the glyph table at [0, 80), zero elsewhere (R38, R51, R52). -/
def creationByte (a : Nat) : Byte := glyphTable.getD a 0

/-- The cells that differ from their creation value. -/
structure Memory where
  cells : List Host.Cell
  deriving DecidableEq, Repr

/-- The value of address a in a list of cells. -/
def readCells : List Host.Cell → Nat → Byte
  | [], a => creationByte a
  | (b, v) :: rest, a => if a = b then v else readCells rest a

/-- The cells without those of address a. -/
def eraseCell (a : Nat) (cells : List Host.Cell) : List Host.Cell := cells.filter (fun c => c.1 ≠ a)

/-- The cells with (a, v) put before the first higher address. -/
def insertCell (a : Nat) (v : Byte) : List Host.Cell → List Host.Cell
  | [] => [(a, v)]
  | (b, w) :: rest => if a < b then (a, v) :: (b, w) :: rest else (b, w) :: insertCell a v rest

/-- The byte held at address a, a below 4096 (R57). -/
def Memory.get (m : Memory) (a : Nat) : Byte := readCells m.cells a

/-- Memory with byte v at address a; a byte equal to its creation value is not listed (R57). -/
def Memory.put (m : Memory) (a : Nat) (v : Byte) : Memory :=
  if v = creationByte a then ⟨eraseCell a m.cells⟩ else ⟨insertCell a v (eraseCell a m.cells)⟩

/-- `MemRead(addr, 1)`: "return MEM[addr mod 4096]" (R57). -/
def Memory.read (m : Memory) (a : Nat) : Byte := m.get (a % Config.memSize)

/-- `MemWrite(addr, 1, v)`: "MEM[addr mod 4096] <- v" (R57). -/
def Memory.write (m : Memory) (a : Nat) (v : Byte) : Memory := m.put (a % Config.memSize) v

/-- The n bytes at a, a + 1, ... (R58). -/
def Memory.readBytes (m : Memory) (a : Nat) : Nat → List Byte
  | 0 => []
  | n + 1 => m.read a :: m.readBytes (a + 1) n

/-- Writes of a list of bytes at a, a + 1, ..., in that order (R58, R61). -/
def Memory.writeBytes (m : Memory) (a : Nat) : List Byte → Memory
  | [] => m
  | v :: rest => (m.write a v).writeBytes (a + 1) rest

/-- Addresses strictly rise along the cells. -/
def risingCells : List Host.Cell → Bool
  | [] => true
  | [_] => true
  | (a, _) :: (b, w) :: rest => decide (a < b) && risingCells ((b, w) :: rest)

/-- The canonical form: strictly rising legal addresses (R50), no cell at its creation value. -/
def Memory.wf (m : Memory) : Bool :=
  risingCells m.cells && m.cells.all (fun c => decide (c.1 < Config.memSize) && decide (c.2 ≠ creationByte c.1))

end Sys2Proof.Machine
end

