-- ==== Sys2Proof/Machine/State.lean ====
section
/-!
DEFINITION. The architectural state of the core (10_state.md), as plain data, its value after creation, and the
reasons a step could stop.
-/

namespace Sys2Proof.Machine

/-- The controller state (R31). -/
inductive Ctrl where
  | running
  | paused
  | halted
  deriving DecidableEq, Repr

/-- Why the machine halted (R32); the codes of R201 are `HaltCause.code` of Machine/Ports.lean. -/
inductive HaltCause where
  | none
  | quit
  | loadFailure
  | stackOverflow
  | memOutOfRange
  | keyOutOfRange
  deriving DecidableEq, Repr

/-- The halt record (R32). `op` is none for a fetch fault; QUIT and LOAD_FAILURE record the cause only (R201).
DESIGN CHOICE (log 18): what is not recorded is none; safe. -/
structure HaltRecord where
  cause : HaltCause
  pc    : Option Word
  op    : Option Word
  addr  : Option Nat
  deriving DecidableEq, Repr

/-- The record of a machine that has not halted (R32, R38). -/
def HaltRecord.empty : HaltRecord := ⟨.none, none, none, none⟩

/-- The non-fatal anomalies (R201, codes 1 and 2). -/
inductive DiagCode where
  | unimplementedOpcode
  | stackUnderflow
  deriving DecidableEq, Repr

/-- One event of the `diag` port (R208): code, PC_fetch, opcode. -/
structure DiagEvent where
  code : DiagCode
  pc   : Word
  op   : Word
  deriving DecidableEq, Repr

/-- A request of an external adapter, applied in the drain phase (R40, R226). -/
inductive Request where
  | keySet (k : Key) (b : Bool)
  | pauseToggle
  | quit
  deriving DecidableEq, Repr

/-- What comes next in a controller tick (R226). `execute k` is a cycle with k more cycles of this tick after it.
The model's own field (log 1). -/
inductive Phase where
  | drain
  | execute (later : Nat)
  | timer
  | render
  deriving DecidableEq, Repr

/-- The machine's state: the tuple of 10_state.md, MEM, and (from `phase` on) the model's own fields for the
position in a tick, the inputs still to come and the diagnostic output. -/
structure State where
  /-- V0..VF (R20). -/
  v      : Vector Byte 16
  /-- The index register I (R24). -/
  i      : Word
  /-- The program counter (R25). -/
  pc     : Word
  /-- The call stack's entries (R26). -/
  stack  : Vector Word 12
  /-- The call stack's depth (R26); DESIGN CHOICE (log 8): 13..15, "never held" (R33), do not exist. -/
  sp     : Fin 13
  /-- The delay timer (R27). -/
  dt     : Byte
  /-- The sound timer (R28). -/
  st     : Byte
  /-- The input latch (R29). -/
  key    : Vector Bool 16
  /-- The framebuffer (R30). -/
  fb     : Framebuffer
  /-- Memory (R50). -/
  mem    : Memory
  /-- The controller state (R31). -/
  ctrl   : Ctrl
  /-- The halt record (R32). -/
  halt   : HaltRecord
  /-- The position in the controller tick (R226, log 1). -/
  phase  : Phase
  /-- For each coming tick the requests its drain finds, oldest first (R34, R226, log 3). -/
  inputs : List (List Request)
  /-- The bytes the `rand8` input gives to the next draws (R40, log 4). -/
  randIn : List Byte
  /-- How many random bytes have been drawn (log 4). -/
  draws  : Nat
  /-- The events of the `diag` port, newest first (R208, log 5). -/
  diag   : List DiagEvent
  deriving DecidableEq, Repr

/-- Why a step has no next state with a reason of the hardware: never. Every fault of the spec either enters HALTED,
which is a next state (R206), or is a diagnostic (R208), so this type has no constructor (log 2; safe). -/
inductive Fault : Type where
  deriving DecidableEq, Repr

/-- Why the model gives an instruction no meaning. -/
inductive Refusal where
  /-- Raised by an arm of `exec` that has no meaning yet; safe. No arm of this model raises it. -/
  | notModelled (mnemonic : String)
  deriving DecidableEq, Repr

/-- "created once with an empty/zeroed state", with the glyph table in memory (R36, R240). -/
def State.zeroed : State where
  v      := Vector.replicate 16 0
  i      := 0
  pc     := 0
  stack  := Vector.replicate 12 0
  sp     := 0
  dt     := 0
  st     := 0
  key    := Vector.replicate 16 false
  fb     := Vector.replicate 32 0
  mem    := ⟨[]⟩
  ctrl   := .running
  halt   := .empty
  phase  := .drain
  inputs := []
  randIn := []
  draws  := 0
  diag   := []

/-- The machine after creation with the empty program, before its first tick (R38, R240, R241). -/
def State.reset : State := { State.zeroed with pc := 0x200, ctrl := .running }

end Sys2Proof.Machine
end

