-- ==== Sys2Proof/Machine/Ops.lean ====
section
/-!
DEFINITION. The named operations over registers, stack, memory, latch and framebuffer that the meanings share, and
the one entry into HALTED that every fatal fault takes (60_exceptions.md R206).
-/

namespace Sys2Proof.Machine

/-- The read of general register V[r] (R10, R20). -/
def State.reg (s : State) (r : Reg) : Byte := s.v[r]

/-- The write `V[r] <- b` (R10, R20). -/
def State.setReg (s : State) (r : Reg) (b : Byte) : State := { s with v := s.v.set r b }

/-- All general registers at once, for FX65 (R165). -/
def State.setRegs (s : State) (v : Vector Byte 16) : State := { s with v := v }

/-- The write `I <- a` (R10, R24). -/
def State.setI (s : State) (a : Word) : State := { s with i := a }

/-- The write `PC <- target`, "the only way a rule redirects control" (R10, R25). -/
def State.setPc (s : State) (a : Word) : State := { s with pc := a }

/-- ADVANCE: `PC <- wrap16(PC + 2)` (R92). -/
def State.advance (s : State) : State := s.setPc (s.pc + 2)

/-- `Skip(): PC <- wrap16(PC + 2)` on the advanced PC (R96). -/
def State.skip (s : State) : State := s.setPc (s.pc + 2)

/-- `PC_fetch` of the running instruction, from the advanced PC (R92).
DEDUCED (log 9): advancing is modulo 2^16, so subtracting 2 gives it back; safe. -/
def State.pcFetch (s : State) : Word := s.pc - 2

/-- The write `DT <- b` (R27). -/
def State.setDt (s : State) (b : Byte) : State := { s with dt := b }

/-- The write `ST <- b` (R28). -/
def State.setSt (s : State) (b : Byte) : State := { s with st := b }

/-- The latch write `KEY[k] <- b`, made only by the drain phase (R29, R226). -/
def State.setKey (s : State) (k : Key) (b : Bool) : State := { s with key := s.key.set k b }

/-- The framebuffer replaced as a whole (R30). -/
def State.setFb (s : State) (fb : Framebuffer) : State := { s with fb := fb }

/-- Memory replaced as a whole. -/
def State.setMem (s : State) (m : Memory) : State := { s with mem := m }

/-- The controller state replaced (R31). -/
def State.setCtrl (s : State) (c : Ctrl) : State := { s with ctrl := c }

/-- The position in the tick replaced (R226). -/
def State.setPhase (s : State) (p : Phase) : State := { s with phase := p }

/-- The requests still to come replaced (R226). -/
def State.setInputs (s : State) (q : List (List Request)) : State := { s with inputs := q }

/-- `MemRead(a, 1)` (R57). -/
def State.readByte (s : State) (a : Nat) : Byte := s.mem.read a

/-- `KEY[k]` (R10, R29). -/
def State.pressed (s : State) (k : Key) : Bool := s.key[k]

/-- `diag(code, (pc: PC_fetch, op))`: the event of a running instruction; no effect on architectural state (R208). -/
def State.emitDiag (s : State) (code : DiagCode) (op : Word) : State :=
  { s with diag := ⟨code, s.pcFetch, op⟩ :: s.diag }

/-! ### Fatal fault entry

There is no handler, no saved state and no return from a fault: HALTED is terminal (R206, R211, R229), so nothing
stands beside the entry. -/

/-- Entry into HALTED: `HALT <- record; CTRL <- HALTED`, and "no other state changes" (R206). -/
def State.enterHalted (s : State) (r : HaltRecord) : State := { s with halt := r, ctrl := .halted }

/-- `raise Fault(cause, addr)` by the running instruction: the record holds PC_fetch, the opcode and addr (R206).
DEDUCED (log 9): the opcode is the instruction's encoding, since decoding drops no bit; safe. -/
def raise (cause : HaltCause) (addr : Nat) (i : Instr) (s : State) : Host.Outcome State Fault Refusal :=
  .next (s.enterHalted ⟨cause, some s.pcFetch, some (encode i), some addr⟩)

/-- A fetch fault at PC: no opcode is recorded and PC is not advanced (R91, R206). -/
def raiseFetch (addr : Nat) (s : State) : Host.Outcome State Fault Refusal :=
  .next (s.enterHalted ⟨.memOutOfRange, some s.pc, none, some addr⟩)

/-! ### Checks -/

/-- `CheckAddr(a)`: the address to report if it faults (R56). -/
def checkAddr (p : OobPolicy) (a : Nat) : Option Nat :=
  match p with
  | .halt => if Config.memSize ≤ a then some a else none
  | .wrap => none

/-- `CheckAddr` of a, a + 1, ..., a + n - 1 in that order: the first address that faults (R56, R205). -/
def checkRange (p : OobPolicy) (a : Nat) : Nat → Option Nat
  | 0 => none
  | n + 1 =>
    match checkAddr p a with
    | some bad => some bad
    | none => checkRange p (a + 1) n

/-- An instruction's effect after the checks of its n bytes at a, or the fault of the first bad one: every check
comes before any write (R56, R207). -/
def afterRange (a n : Nat) (i : Instr) (s : State) (effect : State) : Host.Outcome State Fault Refusal :=
  match checkRange Config.oobPolicy a n with
  | some bad => raise .memOutOfRange bad i s
  | none => .next effect

/-- `CheckKey(k)`: the key index to report if it faults (R180). -/
def checkKey (p : OobPolicy) (k : Nat) : Option Nat :=
  match p with
  | .halt => if Config.nkeys ≤ k then some k else none
  | .wrap => none

/-- `Fetch16(pc)`: the opcode at pc, or the first address out of range (R53). -/
def fetch16 (p : OobPolicy) (m : Memory) (pc : Word) : Except Nat Word :=
  match checkRange p pc.toNat 2 with
  | some bad => .error bad
  | none => .ok (wordOfBytes (m.read pc.toNat) (m.read (pc.toNat + 1)))

/-! ### Call stack -/

/-- A push: `STACK[SP] <- a; SP <- SP + 1`, or none when SP = STACK_DEPTH (R26, R112). -/
def State.push (s : State) (a : Word) : Option State :=
  if h : s.sp.val < 12 then
    some { s with stack := s.stack.set s.sp.val a h, sp := ⟨s.sp.val + 1, by omega⟩ }
  else none

/-- A pop: `SP <- SP - 1` and the entry STACK[SP], or none when SP = 0 (R26, R110). The entry is not cleared. -/
def State.pop (s : State) : Option (Word × State) :=
  if h : 0 < s.sp.val then
    some (s.stack[s.sp.val - 1]'(by omega), { s with sp := ⟨s.sp.val - 1, by omega⟩ })
  else none

/-! ### Input latch and random byte -/

/-- `min k with KEY[k]`, or none when no key is pressed (R186). -/
def lowestPressed (key : Vector Bool 16) : Option Key := (List.finRange 16).find? (fun k => key[k])

/-- The value the next `Rand8()` returns: the next byte of the input, and a free value when State lists none
(R12, R143, log 4). -/
def State.nextRand (s : State) : Byte :=
  match s.randIn with
  | b :: _ => b
  | [] => Config.rand8 s.draws

/-- One draw taken from the input: "each execution draws one fresh value" (R143). -/
def State.drawn (s : State) : State := { s with randIn := s.randIn.tail, draws := s.draws + 1 }

/-! ### Framebuffer -/

/-- Pixel (x, y), "bit FB[y*WIDTH + x]"; off outside the screen (R30). -/
def fbPixel (fb : Framebuffer) (x y : Nat) : Bool := (fb[y]?.getD 0).getLsbD x

/-- `FB[y*WIDTH + x] <- FB[y*WIDTH + x] ^ 1` (R101). -/
def fbToggle (fb : Framebuffer) (x y : Nat) : Framebuffer :=
  if h : y < 32 then fb.set y (fb[y] ^^^ BitVec.twoPow 64 x) else fb

/-- Every pixel off (R100). -/
def fbClear : Framebuffer := Vector.replicate 32 0

/-- Pixel (x, y) of the machine (R30). -/
def State.pixel (s : State) (x y : Nat) : Bool := fbPixel s.fb x y

end Sys2Proof.Machine
end

