-- ==== Sys2Proof/Machine/Operands.lean ====
section
/-!
DEFINITION. The operand forms (30_encoding.md R73): immediates, jump targets, addresses through I, the glyph address,
the key index, the decimal digits.
-/

namespace Sys2Proof.Machine

/-- An absolute target or index: `zext_16(NNN)` (R73). -/
def addrNNN (nnn : BitVec 12) : Word := zext16 nnn

/-- The target of BNNN: `wrap16(V[0] + NNN)`, not reduced to 12 bits (R117). -/
def targetV0 (nnn : BitVec 12) (s : State) : Word := (s.reg 0).setWidth 16 + zext16 nnn

/-- The address I + k of an access through I, an unbounded number (R58). -/
def State.indexAddr (s : State) (k : Nat) : Nat := s.i.toNat + k

/-- The glyph address `V[X] * 5`, with V[X] not masked to 4 bits (R162). -/
def glyphAddr (b : Byte) : Word := b.setWidth 16 * 5

/-- `wrap16(I + V[X])` (R161). -/
def indexPlus (i : Word) (b : Byte) : Word := i + b.setWidth 16

/-- The key that a checked index names: `k mod 16` (R181, R182). -/
def keyOf (b : Byte) : Key := ⟨b.toNat % 16, by omega⟩

/-- A digit or key index as a byte. -/
def byteOf (n : Nat) : Byte := BitVec.ofNat 8 n

/-- Hundreds, tens and units of a byte (R163). -/
def decimalDigits (b : Byte) : List Byte :=
  [byteOf (b.toNat / 100), byteOf (b.toNat / 10 % 10), byteOf (b.toNat % 10)]

/-- V0..VX inclusive, in order (R164). -/
def State.regsUpTo (s : State) (x : Reg) : List Byte := s.v.toList.take (x.val + 1)

/-- The registers with V0..VX replaced by the bytes at a, a + 1, ..., a + X (R165). -/
def State.regsFromMem (s : State) (a : Nat) (x : Reg) : Vector Byte 16 :=
  Vector.ofFn (fun k : Fin 16 => if k ≤ x then s.mem.read (a + k.val) else s.reg k)

end Sys2Proof.Machine
end

