-- ==== Sys2Proof/Machine/Flags.lean ====
section
/-!
DEFINITION. The flag computations (43_alu.md R130) and the flag-then-result order of the flag-setting operations (R131).
-/

namespace Sys2Proof.Machine

/-- A flag as VF holds it, "always with 0 or 1" (R23). -/
def flagByte (b : Bool) : Byte := if b then 1 else 0

/-- Carry of 8XY4: the exact sum passes 255 (R138). -/
def carry (a b : Byte) : Bool := decide (255 < a.toNat + b.toNat)

/-- No borrow of a - b: b <= a (R139). -/
def noBorrow (a b : Byte) : Bool := decide (b.toNat ≤ a.toNat)

/-- Bit 0, the bit 8XY6 shifts out (R140). -/
def bit0 (a : Byte) : Bool := a.getLsbD 0

/-- Bit 7, the bit 8XYE shifts out (R142). -/
def bit7 (a : Byte) : Bool := a.getLsbD 7

/-- A flag-setting operation: the flag is written to VF first, then the result to VX, so that with X = 0xF the
result overwrites the flag. The flag comes from the values before the instruction; the result's operands are read
before the flag write (LATCHED) or after it (SEQUENTIAL) (R131). -/
def flagOp (mode : FlagOperandMode) (flag : Byte → Byte → Bool) (result : Byte → Byte → Byte) (x y : Reg)
    (s : State) : State :=
  let flagged := s.setReg regF (flagByte (flag (s.reg x) (s.reg y)))
  match mode with
  | .latched => flagged.setReg x (result (s.reg x) (s.reg y))
  | .sequential => flagged.setReg x (result (flagged.reg x) (flagged.reg y))

end Sys2Proof.Machine
end

