-- ==== Sys2Proof/Machine/Alu.lean ====
section
/-!
DEFINITION. Register arithmetic and logic (43_alu.md). `BitVec` arithmetic is the `wrap8` of R130.
-/

namespace Sys2Proof.Machine

/-- 6XNN LD (R132). -/
def execLdImm (x : Reg) (nn : Byte) (s : State) : Host.Outcome State Fault Refusal := .next (s.setReg x nn)

/-- 7XNN ADD, no flag (R133). -/
def execAddImm (x : Reg) (nn : Byte) (s : State) : Host.Outcome State Fault Refusal :=
  .next (s.setReg x (s.reg x + nn))

/-- 8XY0 LD (R134). -/
def execLdReg (x y : Reg) (s : State) : Host.Outcome State Fault Refusal := .next (s.setReg x (s.reg y))

/-- 8XY1 OR (R135). -/
def execOrReg (x y : Reg) (s : State) : Host.Outcome State Fault Refusal := .next (s.setReg x (s.reg x ||| s.reg y))

/-- 8XY2 AND (R136). -/
def execAndReg (x y : Reg) (s : State) : Host.Outcome State Fault Refusal := .next (s.setReg x (s.reg x &&& s.reg y))

/-- 8XY3 XOR (R137). -/
def execXorReg (x y : Reg) (s : State) : Host.Outcome State Fault Refusal := .next (s.setReg x (s.reg x ^^^ s.reg y))

/-- 8XY4 ADD with carry to VF (R138). -/
def execAddReg (x y : Reg) (s : State) : Host.Outcome State Fault Refusal :=
  .next (flagOp Config.flagOperandMode carry (fun a b => a + b) x y s)

/-- 8XY5 SUB, VX minus VY, no-borrow to VF (R139). -/
def execSub (x y : Reg) (s : State) : Host.Outcome State Fault Refusal :=
  .next (flagOp Config.flagOperandMode noBorrow (fun a b => a - b) x y s)

/-- 8XY6 SHR, the VX-only variant: Y is not read (R79, R140). -/
def execShr (x _y : Reg) (s : State) : Host.Outcome State Fault Refusal :=
  .next (flagOp Config.flagOperandMode (fun a _ => bit0 a) (fun a _ => a >>> 1) x x s)

/-- 8XY7 SUBN, VY minus VX, no-borrow to VF (R141). -/
def execSubn (x y : Reg) (s : State) : Host.Outcome State Fault Refusal :=
  .next (flagOp Config.flagOperandMode (fun a b => noBorrow b a) (fun a b => b - a) x y s)

/-- 8XYE SHL, the VX-only variant: Y is not read (R79, R142). -/
def execShl (x _y : Reg) (s : State) : Host.Outcome State Fault Refusal :=
  .next (flagOp Config.flagOperandMode (fun a _ => bit7 a) (fun a _ => a <<< 1) x x s)

/-- CXNN RND: `V[X] <- Rand8() & NN` (R143). -/
def execRnd (x : Reg) (nn : Byte) (s : State) : Host.Outcome State Fault Refusal :=
  .next (s.drawn.setReg x (s.nextRand &&& nn))

end Sys2Proof.Machine
end

