-- ==== Sys2Proof/Machine/Control.lean ====
section
/-!
DEFINITION. Control transfer and skips (42_control.md). PC is the advanced PC when a meaning starts (40_cycle.md R92).
-/

namespace Sys2Proof.Machine

/-- A conditional skip (R96). -/
def skipIf (c : Bool) (s : State) : State := if c then s.skip else s

/-- 00EE RET: pop into PC; with an empty stack a diagnostic, and PC stays advanced (R110, R204). -/
def execRet (s : State) : Host.Outcome State Fault Refusal :=
  match s.pop with
  | some (a, popped) => .next (popped.setPc a)
  | none => .next (s.emitDiag .stackUnderflow (encode .ret))

/-- 1NNN JP (R111). -/
def execJp (nnn : BitVec 12) (s : State) : Host.Outcome State Fault Refusal := .next (s.setPc (addrNNN nnn))

/-- 2NNN CALL: push the advanced PC and jump; with a full stack the fatal fault STACK_OVERFLOW, addr SP (R112, R203). -/
def execCall (nnn : BitVec 12) (s : State) : Host.Outcome State Fault Refusal :=
  match s.push s.pc with
  | some pushed => .next (pushed.setPc (addrNNN nnn))
  | none => raise .stackOverflow s.sp.val (.call nnn) s

/-- 3XNN SE: skip if V[X] = NN (R113). -/
def execSeImm (x : Reg) (nn : Byte) (s : State) : Host.Outcome State Fault Refusal :=
  .next (skipIf (s.reg x == nn) s)

/-- 4XNN SNE: skip if V[X] differs from NN (R114). -/
def execSneImm (x : Reg) (nn : Byte) (s : State) : Host.Outcome State Fault Refusal :=
  .next (skipIf (s.reg x != nn) s)

/-- 5XY0 SE: skip if V[X] = V[Y] (R115). -/
def execSeReg (x y : Reg) (s : State) : Host.Outcome State Fault Refusal :=
  .next (skipIf (s.reg x == s.reg y) s)

/-- 9XY0 SNE: skip if V[X] differs from V[Y] (R116). -/
def execSneReg (x y : Reg) (s : State) : Host.Outcome State Fault Refusal :=
  .next (skipIf (s.reg x != s.reg y) s)

/-- BNNN JP V0 (R117). -/
def execJpV0 (nnn : BitVec 12) (s : State) : Host.Outcome State Fault Refusal := .next (s.setPc (targetV0 nnn s))

end Sys2Proof.Machine
end

