-- ==== Sys2Proof/Machine/Display.lean ====
section
/-!
DEFINITION. The display instructions 00E0 and DXYN (41_display.md).
-/

namespace Sys2Proof.Machine

/-- Column c of one sprite row: the pixel at x0 + c, clipped at the right edge; a 1 bit (bit 7 is the leftmost pixel)
sets the collision if its pixel is on, and toggles it (R101, the spec's decision D17). -/
def drawColumn (x0 y : Nat) (row : Byte) (acc : Framebuffer × Bool) (c : Nat) : Framebuffer × Bool :=
  if Config.width ≤ x0 + c then acc
  else if row.getLsbD (7 - c) then (fbToggle acc.1 (x0 + c) y, acc.2 || fbPixel acc.1 (x0 + c) y)
  else acc

/-- One sprite row at line y, clipped at the bottom edge (R101). -/
def drawRow (x0 y : Nat) (row : Byte) (acc : Framebuffer × Bool) : Framebuffer × Bool :=
  if Config.height ≤ y then acc else (List.range 8).foldl (drawColumn x0 y row) acc

/-- The sprite rows from line y on, top to bottom (R101). -/
def drawRows (x0 : Nat) : Nat → List Byte → Framebuffer × Bool → Framebuffer × Bool
  | _, [], acc => acc
  | y, row :: rest, acc => drawRows x0 (y + 1) rest (drawRow x0 y row acc)

/-- The framebuffer and the collision of DXYN: the start wraps, "V[X] mod WIDTH" and "V[Y] mod HEIGHT", read before
any write; the sprite is the N bytes at I (R101). -/
def drawSprite (x y : Reg) (n : Nat) (s : State) : Framebuffer × Bool :=
  drawRows ((s.reg x).toNat % Config.width) ((s.reg y).toNat % Config.height) (s.mem.readBytes (s.indexAddr 0) n)
    (s.fb, false)

/-- 00E0 CLS: every pixel off (R100). -/
def execCls (s : State) : Host.Outcome State Fault Refusal := .next (s.setFb fbClear)

/-- DXYN DRW: N bytes checked, the sprite drawn, then VF written with the collision (R101). -/
def execDrw (x y : Reg) (n : Nat) (s : State) : Host.Outcome State Fault Refusal :=
  afterRange (s.indexAddr 0) n (.drw x y n) s
    ((s.setFb (drawSprite x y n s).1).setReg regF (flagByte (drawSprite x y n s).2))

end Sys2Proof.Machine
end

