-- ==== Sys2Proof/Machine/IndexMemory.lean ====
section
/-!
DEFINITION. Index register, loads and stores (44_index_memory.md). No instruction here changes PC further.
-/

namespace Sys2Proof.Machine

/-- ANNN LD I (R160). -/
def execLdI (nnn : BitVec 12) (s : State) : Host.Outcome State Fault Refusal := .next (s.setI (addrNNN nnn))

/-- FX1E ADD I, no flag (R161). -/
def execAddI (x : Reg) (s : State) : Host.Outcome State Fault Refusal := .next (s.setI (indexPlus s.i (s.reg x)))

/-- FX29 LD F (R162). -/
def execLdF (x : Reg) (s : State) : Host.Outcome State Fault Refusal := .next (s.setI (glyphAddr (s.reg x)))

/-- FX33 LD B: the three decimal digits of V[X] at I, I + 1, I + 2 (R163). -/
def execLdB (x : Reg) (s : State) : Host.Outcome State Fault Refusal :=
  afterRange (s.indexAddr 0) 3 (.ldB x) s (s.setMem (s.mem.writeBytes (s.indexAddr 0) (decimalDigits (s.reg x))))

/-- FX55: V0..VX stored at I, I + 1, ...; I unchanged (R164). -/
def execLdMemVx (x : Reg) (s : State) : Host.Outcome State Fault Refusal :=
  afterRange (s.indexAddr 0) (x.val + 1) (.ldMemVx x) s
    (s.setMem (s.mem.writeBytes (s.indexAddr 0) (s.regsUpTo x)))

/-- FX65: V0..VX loaded from I, I + 1, ...; I unchanged (R165). -/
def execLdVxMem (x : Reg) (s : State) : Host.Outcome State Fault Refusal :=
  afterRange (s.indexAddr 0) (x.val + 1) (.ldVxMem x) s (s.setRegs (s.regsFromMem (s.indexAddr 0) x))

end Sys2Proof.Machine
end

