-- ==== Sys2Proof/Machine/TimerInput.lean ====
section
/-!
DEFINITION. Timer and input-latch access (45_timer_input.md).
-/

namespace Sys2Proof.Machine

/-- EX9E SKP: skip if the key V[X] is pressed; an index of 16 or more is the fatal fault KEY_OUT_OF_RANGE
(R180, R181). -/
def execSkp (x : Reg) (s : State) : Host.Outcome State Fault Refusal :=
  match checkKey Config.oobPolicy (s.reg x).toNat with
  | some bad => raise .keyOutOfRange bad (.skp x) s
  | none => .next (skipIf (s.pressed (keyOf (s.reg x))) s)

/-- EXA1 SKNP: skip if the key V[X] is not pressed (R180, R182). -/
def execSknp (x : Reg) (s : State) : Host.Outcome State Fault Refusal :=
  match checkKey Config.oobPolicy (s.reg x).toNat with
  | some bad => raise .keyOutOfRange bad (.sknp x) s
  | none => .next (skipIf (!s.pressed (keyOf (s.reg x))) s)

/-- FX07: the delay timer into V[X] (R183). -/
def execLdVxDt (x : Reg) (s : State) : Host.Outcome State Fault Refusal := .next (s.setReg x s.dt)

/-- FX15: V[X] into the delay timer (R184). -/
def execLdDt (x : Reg) (s : State) : Host.Outcome State Fault Refusal := .next (s.setDt (s.reg x))

/-- FX18: V[X] into the sound timer (R185). -/
def execLdSt (x : Reg) (s : State) : Host.Outcome State Fault Refusal := .next (s.setSt (s.reg x))

/-- FX0A: the lowest pressed key's index into V[X]; with no key pressed PC goes back to PC_fetch, so that the next
cycle fetches the same FX0A (R186). -/
def execLdVxK (x : Reg) (s : State) : Host.Outcome State Fault Refusal :=
  match lowestPressed s.key with
  | some k => .next (s.setReg x (byteOf k.val))
  | none => .next (s.setPc s.pcFetch)

end Sys2Proof.Machine
end

