-- ==== Sys2Proof/Machine/Controller.lean ====
section
/-!
DEFINITION. The cycle (40_cycle.md R99) and the phases of a controller tick (60_exceptions.md R220 to R229).
One machine step is one cycle or one other phase of a tick (00_scope.md R5, log 1).
-/

namespace Sys2Proof.Machine

/-- EXECUTE for an opcode outside the table: the diagnostic UNIMPLEMENTED_OPCODE and nothing else (R97). -/
def execUnimplemented (op : Word) (s : State) : Host.Outcome State Fault Refusal :=
  .next (s.emitDiag .unimplementedOpcode op)

/-- DECODE and EXECUTE of a fetched opcode, on the state after ADVANCE (R93, R94). -/
def execOpcode (op : Word) (s : State) : Host.Outcome State Fault Refusal :=
  match decode op with
  | .ok i => exec i s
  | .error _ => execUnimplemented op s

/-- `Cycle()`: FETCH, ADVANCE, DECODE, EXECUTE (R90, R99). -/
def cycle (s : State) : Host.Outcome State Fault Refusal :=
  match fetch16 Config.oobPolicy s.mem s.pc with
  | .error bad => raiseFetch bad s
  | .ok op => execOpcode op s.advance

/-- The phase with n cycles of the tick still to run: after the last one comes the timer step (R226). -/
def cyclesLeft : Nat → Phase
  | 0 => .timer
  | k + 1 => .execute k

/-- `CTRL <- (CTRL == RUNNING) ? PAUSED : RUNNING` (R226); HALTED, which no drain meets, stays (R225). -/
def Ctrl.toggle : Ctrl → Ctrl
  | .running => .paused
  | .paused => .running
  | .halted => .halted

/-- The requests of one drain, in arrival order; a quit stops the drain and the later ones are discarded (R226, R228). -/
def drain : List Request → State → State
  | [], s => s
  | .keySet k b :: rest, s => drain rest (s.setKey k b)
  | .pauseToggle :: rest, s => drain rest (s.setCtrl s.ctrl.toggle)
  | .quit :: _, s => s.enterHalted ⟨.quit, none, none, none⟩

/-- The requests pending at the start of this tick: none when State lists no further ones (log 3). -/
def State.pending (s : State) : List Request := s.inputs.headD []

/-- Where the tick goes after its drain: its cycles when RUNNING, else the tick is over (R226). -/
def afterDrain : Ctrl → Phase
  | .running => cyclesLeft Config.cyclesPerTick
  | .paused => .drain
  | .halted => .drain

/-- The DRAIN phase (R226). -/
def drainPhase (s : State) : State :=
  let drained := drain s.pending (s.setInputs s.inputs.tail)
  drained.setPhase (afterDrain drained.ctrl)

/-- One counter of the Timer Driver: decremented if above 0 (R220). -/
def countDown (b : Byte) : Byte := if 0 < b.toNat then b - 1 else b

/-- `TimerStep()` (R220). -/
def timerStep (s : State) : State := (s.setDt (countDown s.dt)).setSt (countDown s.st)

/-- A RUNNING machine's step, by the phase of its tick (R226). The render hand-off changes no state (R42). -/
def runningStep (s : State) : Host.Outcome State Fault Refusal :=
  match s.phase with
  | .drain => .next (drainPhase s)
  | .execute later => cycle (s.setPhase (cyclesLeft later))
  | .timer => .next ((timerStep s).setPhase .render)
  | .render => .next (s.setPhase .drain)

/-- One step of the controller: HALTED is terminal and answers itself (R229); while PAUSED only the drain of each tick
happens (R227, log 16). -/
def controllerStep (s : State) : Host.Outcome State Fault Refusal :=
  match s.ctrl with
  | .halted => .next s
  | .paused => .next (drainPhase s)
  | .running => runningStep s

end Sys2Proof.Machine
end

