-- ==== Sys2Proof/Machine/Load.lean ====
section
/-!
DEFINITION. Creation and program load (70_reset_and_hazards.md R240 to R242), and the placing of one opcode where the
next cycle fetches it (log 10, log 17).
-/

namespace Sys2Proof.Machine

/-- What the `prog` port brings: a byte sequence, or the adapter's report that there is none (R40, R242). -/
inductive ProgramSource where
  | missing
  | bytes (prog : List Byte)
  deriving DecidableEq, Repr

/-- A machine whose load failed: zeroed, HALTED, cause LOAD_FAILURE (R240, R242).
DEDUCED (log 11): PC keeps the zeroed value, since R240 returns before it writes PC. -/
def State.loadFailed : State := State.zeroed.enterHalted ⟨.loadFailure, none, none, none⟩

/-- The machine with a program that fits, "copied verbatim into Memory at offset 0x200" (R241). -/
def State.loaded (prog : List Byte) : State :=
  State.reset.setMem (State.reset.mem.writeBytes Config.progBase prog)

/-- `Create(prog)` (R240): an oversized, missing or unreadable program fails as a whole (R242). -/
def State.create (src : ProgramSource) : State :=
  match src with
  | .missing => State.loadFailed
  | .bytes prog => if programFits prog then State.loaded prog else State.loadFailed

/-- Where an opcode can be placed for the fetch: at PC if both its bytes exist, else at 0x200 (log 17). -/
def fetchPlace (pc : Word) : Word := if pc.toNat + 1 < Config.memSize then pc else 0x200

/-- The state made ready so that the very next step is a cycle that fetches op (log 17). -/
def placeOpcode (op : Word) (s : State) : State :=
  { s with
    ctrl := .running
    halt := .empty
    phase := match s.phase with | .execute k => .execute k | _ => cyclesLeft Config.cyclesPerTick
    pc := fetchPlace s.pc
    mem := s.mem.writeBytes (fetchPlace s.pc).toNat [highByte op, lowByte op] }

end Sys2Proof.Machine
end

