-- ==== Sys2Proof/Machine/Ports.lean ====
section
/-!
DEFINITION. The output ports, functions of the state (10_state.md R40 to R42), and the numbers of the fault and event
codes (60_exceptions.md R201).
-/

namespace Sys2Proof.Machine

/-- `tone_active`: true exactly when ST is not 0, in every controller state (R41). -/
def State.toneActive (s : State) : Bool := s.st != 0

/-- `fb_view`: the bit FB[k], with pixel (x, y) at k = y*WIDTH + x (R42). -/
def State.fbView (s : State) (k : Nat) : Bool := s.pixel (k % Config.width) (k / Config.width)

/-- `status`: the controller state and the halt record (R40). -/
def State.status (s : State) : Ctrl × HaltRecord := (s.ctrl, s.halt)

/-- The code numbers of the halt causes (R201). -/
def HaltCause.code : HaltCause → Nat
  | .none => 0
  | .stackOverflow => 3
  | .memOutOfRange => 4
  | .keyOutOfRange => 5
  | .loadFailure => 6
  | .quit => 7

/-- The code numbers of the diagnostics (R201). -/
def DiagCode.code : DiagCode → Nat
  | .unimplementedOpcode => 1
  | .stackUnderflow => 2

end Sys2Proof.Machine
end

