-- ==== Sys2Proof/Machine/Step.lean ====
section
/-!
DEFINITION. One step of the machine, and the host's way to make the very next step run a given opcode.
-/

namespace Sys2Proof.Machine

/-- One step: one cycle, or one other phase of a controller tick (00_scope.md R5, 60_exceptions.md R226, log 1). -/
def step (s : State) : Host.Outcome State Fault Refusal := controllerStep s

/-- s with the opcode w placed where the next step fetches, and a cycle as the next step (log 10, log 17). -/
def State.withFetchWord (s : State) (nbits w : Nat) : State := placeOpcode (tableWord nbits w) s

end Sys2Proof.Machine
end

