-- ==== Sys2Proof/Safety.lean ====
section
/-!
DEFINITION. The terms in which claims about runs are stated: the invariant of the machine's own states, the registers
each instruction reads and writes, when an instruction faults, and the frames (what stays unchanged).
-/

namespace Sys2Proof.Machine

/-! ### The invariant -/

/-- Which parts of the halt record a cause records (10_state.md R32, 60_exceptions.md R201): nothing for NONE, the
cause only for QUIT and LOAD_FAILURE, PC_fetch and an address for the faults, with no opcode only for a memory fault
(of a fetch). -/
def HaltRecord.shaped (r : HaltRecord) : Bool :=
  match r.cause with
  | .none | .quit | .loadFailure => r.pc.isNone && r.op.isNone && r.addr.isNone
  | .stackOverflow | .keyOutOfRange => r.pc.isSome && r.op.isSome && r.addr.isSome
  | .memOutOfRange => r.pc.isSome && r.addr.isSome

/-- The controller and its record fit: a cause exactly when HALTED (R32), and PAUSED only between ticks (R226). -/
def ctrlShaped (c : Ctrl) (cause : HaltCause) (p : Phase) : Bool :=
  match c with
  | .running => decide (cause = .none)
  | .paused => decide (cause = .none) && decide (p = .drain)
  | .halted => decide (cause ≠ .none)

/-- A tick never has more than `CYCLES_PER_TICK` cycles to run (R226). -/
def Phase.bounded (p : Phase) : Bool :=
  match p with
  | .execute later => decide (later < Config.cyclesPerTick)
  | .drain | .timer | .render => true

/-- What holds of every state the machine reaches: memory in canonical form, the controller and the halt record
fitting each other, a legal position in the tick. -/
abbrev State.Inv (s : State) : Prop :=
  s.mem.wf = true ∧ s.halt.shaped = true ∧ ctrlShaped s.ctrl s.halt.cause s.phase = true ∧ s.phase.bounded = true

/-! ### Registers read and written (10_state.md R22) -/

/-- V0..VX. -/
def regsThrough (x : Reg) : List Reg := (List.finRange 16).filter (fun r => decide (r ≤ x))

/-- The "reads V" column of R22. -/
def regsRead : Instr → List Reg
  | .seImm x _ | .sneImm x _ | .skp x | .sknp x | .ldDt x | .ldSt x | .addI x | .ldF x | .ldB x => [x]
  | .seReg x y | .sneReg x y => [x, y]
  | .ldImm _ _ | .rnd _ _ | .ldVxDt _ | .ldVxK _ => []
  | .addImm x _ => [x]
  | .ldReg _ y => [y]
  | .orReg x y | .andReg x y | .xorReg x y => [x, y]
  | .addReg x y | .sub x y | .subn x y => [x, y]
  | .shr x _ | .shl x _ => [x]
  | .jpV0 _ => [0]
  | .drw x y _ => [x, y]
  | .ldMemVx x => regsThrough x
  | .ldVxMem _ => []
  | .cls | .ret | .jp _ | .call _ | .ldI _ => []

/-- The "writes V" column of R22. -/
def regsWritten : Instr → List Reg
  | .seImm _ _ | .sneImm _ _ | .skp _ | .sknp _ | .ldDt _ | .ldSt _ | .addI _ | .ldF _ | .ldB _ => []
  | .seReg _ _ | .sneReg _ _ => []
  | .ldImm x _ | .rnd x _ | .ldVxDt x | .ldVxK x => [x]
  | .addImm x _ => [x]
  | .ldReg x _ => [x]
  | .orReg x _ | .andReg x _ | .xorReg x _ => [x]
  | .addReg x _ | .sub x _ | .subn x _ => [regF, x]
  | .shr x _ | .shl x _ => [regF, x]
  | .jpV0 _ => []
  | .drw _ _ _ => [regF]
  | .ldMemVx _ => []
  | .ldVxMem x => regsThrough x
  | .cls | .ret | .jp _ | .call _ | .ldI _ => []

/-! ### Fatal faults (60_exceptions.md R201, R203, R205) -/

/-- The fault of an access of n bytes at a: the first address that does not exist. -/
def rangeFault (a n : Nat) : Option (HaltCause × Nat) :=
  if n ≠ 0 ∧ 4096 < a + n then some (.memOutOfRange, if 4096 ≤ a then a else 4096) else none

/-- The fault of a key index. -/
def keyFault (k : Byte) : Option (HaltCause × Nat) :=
  if 16 ≤ k.toNat then some (.keyOutOfRange, k.toNat) else none

/-- The fatal fault an instruction raises in a state, with the address, key index or depth it records. -/
def faultOf (i : Instr) (s : State) : Option (HaltCause × Nat) :=
  match i with
  | .call _ => if s.sp.val = 12 then some (.stackOverflow, 12) else none
  | .drw _ _ n => rangeFault s.i.toNat n
  | .ldB _ => rangeFault s.i.toNat 3
  | .ldMemVx x | .ldVxMem x => rangeFault s.i.toNat (x.val + 1)
  | .skp x | .sknp x => keyFault (s.reg x)
  | .cls | .ret | .jp _ | .seImm _ _ | .sneImm _ _ | .seReg _ _ | .ldImm _ _ | .addImm _ _ | .ldReg _ _ | .orReg _ _
  | .andReg _ _ | .xorReg _ _ | .addReg _ _ | .sub _ _ | .shr _ _ | .subn _ _ | .shl _ _ | .sneReg _ _ | .ldI _
  | .jpV0 _ | .rnd _ _ | .ldVxDt _ | .ldVxK _ | .ldDt _ | .ldSt _ | .addI _ | .ldF _ => none

/-! ### Frames

`t = { s with f := t.f }` says that every field but f is as it was, memory and the diagnostic stream included. -/

/-- Every register reads as before. -/
def SameRegs (s t : State) : Prop := ∀ r : Reg, t.reg r = s.reg r

/-- Every byte of memory reads as before. -/
def SameBytes (s t : State) : Prop := ∀ a, t.readByte a = s.readByte a

/-- Only registers of rs change. -/
def OnlyRegs (rs : List Reg) (s t : State) : Prop :=
  t = { s with v := t.v } ∧ (∀ r, r ∉ rs → t.reg r = s.reg r) ∧ SameBytes s t

/-- Only PC changes. -/
def OnlyPc (s t : State) : Prop := t = { s with pc := t.pc } ∧ SameRegs s t ∧ SameBytes s t

/-- Only I changes. -/
def OnlyIndex (s t : State) : Prop := t = { s with i := t.i } ∧ SameRegs s t ∧ SameBytes s t

/-- Only the call stack, its depth and PC change. -/
def OnlyStack (s t : State) : Prop :=
  t = { s with stack := t.stack, sp := t.sp, pc := t.pc } ∧ SameRegs s t ∧ SameBytes s t

/-- Only the n bytes at a change. -/
def OnlyStored (a n : Nat) (s t : State) : Prop :=
  t = { s with mem := t.mem } ∧ SameRegs s t ∧
    ∀ b, b < 4096 → ¬ (a ≤ b ∧ b < a + n) → t.readByte b = s.readByte b

/-- What a drain may change: the latch, the controller, the halt record, the tick position and the requests. -/
def OnlyDrained (s t : State) : Prop :=
  t = { s with key := t.key, ctrl := t.ctrl, halt := t.halt, phase := t.phase, inputs := t.inputs }

/-- A function of the state applied to a next state. -/
def mapNext (f : State → State) (o : Host.Outcome State Fault Refusal) : Host.Outcome State Fault Refusal :=
  match o with
  | .next s => .next (f s)
  | .fault r => .fault r
  | .refused r => .refused r

/-- The state drains at its next step: RUNNING at the start of a tick, or PAUSED (R226). -/
def State.drainsNext (s : State) : Prop := (s.ctrl = .running ∧ s.phase = .drain) ∨ s.ctrl = .paused

/-- The last value a list of requests sets key q to, if any. -/
def lastSet (q : Key) : List Request → Option Bool
  | [] => none
  | .keySet k b :: rest =>
    match lastSet q rest with
    | some c => some c
    | none => if k = q then some b else none
  | .pauseToggle :: rest => lastSet q rest
  | .quit :: rest => lastSet q rest

/-- The sprite bit of DXYN that covers pixel (px, py) of the screen (41_display.md R101): row py - y0, column px - x0,
bit 7 of a row its leftmost pixel. -/
def spriteOn (x y : Reg) (n : Nat) (s : State) (px py : Nat) : Bool :=
  let x0 := (s.reg x).toNat % 64
  let y0 := (s.reg y).toNat % 32
  decide (x0 ≤ px ∧ px < x0 + 8 ∧ y0 ≤ py ∧ py < y0 + n) && (s.readByte (s.indexAddr (py - y0))).getLsbD (7 - (px - x0))

/-- The mask and match of an instruction's row of the opcode table (30_encoding.md R76). -/
def rowOf : Instr → Word × Word
  | .cls => (0xFFFF, 0x00E0)
  | .ret => (0xFFFF, 0x00EE)
  | .jp _ => (0xF000, 0x1000)
  | .call _ => (0xF000, 0x2000)
  | .seImm _ _ => (0xF000, 0x3000)
  | .sneImm _ _ => (0xF000, 0x4000)
  | .seReg _ _ => (0xF00F, 0x5000)
  | .ldImm _ _ => (0xF000, 0x6000)
  | .addImm _ _ => (0xF000, 0x7000)
  | .ldReg _ _ => (0xF00F, 0x8000)
  | .orReg _ _ => (0xF00F, 0x8001)
  | .andReg _ _ => (0xF00F, 0x8002)
  | .xorReg _ _ => (0xF00F, 0x8003)
  | .addReg _ _ => (0xF00F, 0x8004)
  | .sub _ _ => (0xF00F, 0x8005)
  | .shr _ _ => (0xF00F, 0x8006)
  | .subn _ _ => (0xF00F, 0x8007)
  | .shl _ _ => (0xF00F, 0x800E)
  | .sneReg _ _ => (0xF00F, 0x9000)
  | .ldI _ => (0xF000, 0xA000)
  | .jpV0 _ => (0xF000, 0xB000)
  | .rnd _ _ => (0xF000, 0xC000)
  | .drw _ _ _ => (0xF000, 0xD000)
  | .skp _ => (0xF0FF, 0xE09E)
  | .sknp _ => (0xF0FF, 0xE0A1)
  | .ldVxDt _ => (0xF0FF, 0xF007)
  | .ldVxK _ => (0xF0FF, 0xF00A)
  | .ldDt _ => (0xF0FF, 0xF015)
  | .ldSt _ => (0xF0FF, 0xF018)
  | .addI _ => (0xF0FF, 0xF01E)
  | .ldF _ => (0xF0FF, 0xF029)
  | .ldB _ => (0xF0FF, 0xF033)
  | .ldMemVx _ => (0xF0FF, 0xF055)
  | .ldVxMem _ => (0xF0FF, 0xF065)

/-- The operand fields of an instruction shifted into place, by its format (30_encoding.md R72, R81). -/
def operandBits : Instr → Word
  | .cls | .ret => 0
  | .jp nnn | .call nnn | .ldI nnn | .jpV0 nnn => nnn.setWidth 16
  | .seImm x nn | .sneImm x nn | .ldImm x nn | .addImm x nn | .rnd x nn =>
    (BitVec.ofNat 16 x.val <<< 8) ||| nn.setWidth 16
  | .seReg x y | .ldReg x y | .orReg x y | .andReg x y | .xorReg x y | .addReg x y | .sub x y | .shr x y | .subn x y
  | .shl x y | .sneReg x y => (BitVec.ofNat 16 x.val <<< 8) ||| (BitVec.ofNat 16 y.val <<< 4)
  | .drw x y n => (BitVec.ofNat 16 x.val <<< 8) ||| (BitVec.ofNat 16 y.val <<< 4) ||| BitVec.ofNat 16 n
  | .skp x | .sknp x | .ldVxDt x | .ldVxK x | .ldDt x | .ldSt x | .addI x | .ldF x | .ldB x | .ldMemVx x
  | .ldVxMem x => BitVec.ofNat 16 x.val <<< 8

/-- An instruction that ends with PC as ADVANCE left it, whatever it does else (40_cycle.md R95). -/
def keepsPc : Instr → Bool
  | .ret | .jp _ | .call _ | .seImm _ _ | .sneImm _ _ | .seReg _ _ | .sneReg _ _ | .skp _ | .sknp _ | .jpV0 _
  | .ldVxK _ => false
  | .cls | .ldImm _ _ | .addImm _ _ | .ldReg _ _ | .orReg _ _ | .andReg _ _ | .xorReg _ _ | .addReg _ _ | .sub _ _
  | .shr _ _ | .subn _ _ | .shl _ _ | .ldI _ | .rnd _ _ | .drw _ _ _ | .ldVxDt _ | .ldDt _ | .ldSt _ | .addI _
  | .ldF _ | .ldB _ | .ldMemVx _ | .ldVxMem _ => true

end Sys2Proof.Machine
end

