-- ==== Sys2Proof/Certificates/Slice0/Obligations.lean ====
section
/-!
DEFINITION. The statements for the provers, each a rule of spec/ about what the machine does. "Derived" in a docstring
names the spec's own decision (D<n>), inference or general knowledge the statement rests on, with the model's log entry.
-/

open Sys2Proof Sys2Proof.Machine

/-! ### Encoding -/

/-- Derived from 30_encoding.md R76 and R81: no operand bit is lost between encoding and decoding. -/
def Obligations.EncodeThenDecode : Prop :=
  ∀ i : Instr, i.wellFormed = true →
    decode (encode i) = .ok i ∧ ∀ rest, decodeBytes (encodeBytes i ++ rest) = .ok (i, rest)

/-- Derived from 30_encoding.md R71 to R76: a decoded opcode is the encoding of its instruction, which is well formed
(so the opcode a fault records is the one fetched, log 9). -/
def Obligations.DecodeThenEncode : Prop :=
  ∀ op i, decode op = .ok i → i.wellFormed = true ∧ encode i = op

/-- Derived from R75 and R76: "An opcode selects an instruction exactly when `(op & mask) == match` for its row of rule
R76; no two rows match the same opcode" (groups 5 and 9 strict: the spec's decision D8, log 21). -/
def Obligations.DecodeSelectsTheMatchingRow : Prop :=
  (∀ op i, decode op = .ok i → op &&& (rowOf i).1 = (rowOf i).2) ∧
  (∀ op j, op &&& (rowOf j).1 = (rowOf j).2 → ∃ i, decode op = .ok i ∧ rowOf i = rowOf j) ∧
  (∀ op i j, op &&& (rowOf i).1 = (rowOf i).2 → op &&& (rowOf j).1 = (rowOf j).2 → rowOf i = rowOf j)

/-- Derived from R77 (groups 5 and 9, where a low nibble other than 0 is unimplemented, by the spec's decision D8,
log 21): exactly the opcodes of its six groups decode to no instruction. -/
def Obligations.UnimplementedOpcodesByGroup : Prop :=
  ∀ op : Word, (∃ e, decode op = .error e) ↔
    (fieldG op = 0x0 ∧ op ≠ 0x00E0 ∧ op ≠ 0x00EE) ∨
    (fieldG op = 0x5 ∧ fieldN op ≠ 0x0) ∨
    (fieldG op = 0x8 ∧ (fieldN op = 0x8 ∨ fieldN op = 0x9 ∨ fieldN op = 0xA ∨ fieldN op = 0xB ∨ fieldN op = 0xC ∨
      fieldN op = 0xD ∨ fieldN op = 0xF)) ∨
    (fieldG op = 0x9 ∧ fieldN op ≠ 0x0) ∨
    (fieldG op = 0xE ∧ fieldNN op ≠ 0x9E ∧ fieldNN op ≠ 0xA1) ∨
    (fieldG op = 0xF ∧ fieldNN op ≠ 0x07 ∧ fieldNN op ≠ 0x0A ∧ fieldNN op ≠ 0x15 ∧ fieldNN op ≠ 0x18 ∧
      fieldNN op ≠ 0x1E ∧ fieldNN op ≠ 0x29 ∧ fieldNN op ≠ 0x33 ∧ fieldNN op ≠ 0x55 ∧ fieldNN op ≠ 0x65)

/-- Derived from R81, which the spec marks as derived: every encoding is its row's `match` with the operand fields
shifted into place. -/
def Obligations.EncodingPutsFieldsInPlace : Prop :=
  ∀ i : Instr, i.wellFormed = true → encode i = (rowOf i).2 ||| operandBits i

/-- Derived from R76: a few words, one or two a family, decode to the instruction their digits spell. -/
def Obligations.SampleWordsDecode : Prop :=
  decode 0x00E0 = .ok .cls ∧ decode 0xD125 = .ok (.drw 1 2 5) ∧ decode 0x2400 = .ok (.call 0x400) ∧
  decode 0x9AB0 = .ok (.sneReg 0xA 0xB) ∧ decode 0x8A36 = .ok (.shr 0xA 0x3) ∧ decode 0xC30F = .ok (.rnd 0x3 0x0F) ∧
  decode 0xF533 = .ok (.ldB 0x5) ∧ decode 0xE19E = .ok (.skp 0x1)

/-! ### The cycle -/

/-- Derived from 40_cycle.md R90 to R94 (atomic steps are the spec's decision D1, log 1): a cycle of a RUNNING tick
fetches the two bytes at PC, moves PC past them and runs the decoded instruction. -/
def Obligations.StepRunsTheDecodedInstruction : Prop :=
  ∀ (s : State) (k : Nat) (i : Instr), s.ctrl = .running → s.phase = .execute k → s.pc.toNat + 1 < 4096 →
    decode (wordOfBytes (s.readByte s.pc.toNat) (s.readByte (s.pc.toNat + 1))) = .ok i →
    step s = exec i { s with pc := s.pc + 2, phase := cyclesLeft k }

/-- R97: an opcode outside the table changes no architectural state but PC, emits the diagnostic with PC_fetch and the
opcode, and execution continues. -/
def Obligations.UnimplementedOpcodeIsSkipped : Prop :=
  ∀ (s : State) (k : Nat) (op : Word) (e : DecodeReject), s.ctrl = .running → s.phase = .execute k →
    s.pc.toNat + 1 < 4096 → wordOfBytes (s.readByte s.pc.toNat) (s.readByte (s.pc.toNat + 1)) = op →
    decode op = .error e →
    ∃ t, step s = .next t ∧ t.ctrl = .running ∧ t.pc = s.pc + 2 ∧
      t.diag = ⟨.unimplementedOpcode, s.pc, op⟩ :: s.diag ∧
      t = { s with pc := t.pc, phase := cyclesLeft k, diag := t.diag } ∧ SameRegs s t ∧ SameBytes s t

/-- Derived from R91 and R206 (OOB_POLICY = HALT is the spec's decision D4, log 13): a fetch whose bytes do not both
exist halts with the first bad address; PC is not advanced and no opcode is recorded. -/
def Obligations.FetchOutOfRangeHalts : Prop :=
  ∀ (s : State) (k : Nat), s.ctrl = .running → s.phase = .execute k → 4096 ≤ s.pc.toNat + 1 →
    ∃ t, step s = .next t ∧ t.ctrl = .halted ∧
      t.halt = ⟨.memOutOfRange, some s.pc, none, some (if 4096 ≤ s.pc.toNat then s.pc.toNat else 4096)⟩ ∧
      t = { s with ctrl := t.ctrl, halt := t.halt, phase := cyclesLeft k } ∧ SameRegs s t ∧ SameBytes s t

/-- Derived from R53 and R56, R57 under `OOB_POLICY = WRAP`, the parameter's other value (D4, log 13): the fetch never
faults and both addresses wrap modulo 4096. -/
def Obligations.FetchWrapsUnderTheOtherPolicy : Prop :=
  ∀ (m : Memory) (pc : Word),
    fetch16 .wrap m pc = .ok (wordOfBytes (m.get (pc.toNat % 4096)) (m.get ((pc.toNat + 1) % 4096)))

/-- Derived from R74, R97, R200 and R206 (log 2; a PAUSED state at any tick position drains: log 16): whatever the state, the machine has a next state; no instruction
and no data end a run. -/
def Obligations.EveryStepHasANextState : Prop := ∀ s : State, ∃ t, step s = .next t

/-! ### The controller -/

/-- Derived from R229 (terminal by the spec's decision D15, log 2): a HALTED machine stays exactly as it is, however many
steps it takes. -/
def Obligations.HaltedIsTerminal : Prop :=
  ∀ (n : Nat) (s : State), s.ctrl = .halted → Host.Core.run Sys2Proof.core n s = .next s

/-- Derived from R227 (12 cycles after a resume: the spec's decision D11, log 14; requests in arrival order, keys drained
while PAUSED: D12, log 21; a PAUSED state at any tick position drains: log 16): while PAUSED, ticks whose requests leave
it PAUSED (no quit, an even number of toggles, any key events between them) only change the latch and consume the
requests, so that registers, memory, framebuffer and timers stay as they are; an odd number of toggles resumes, with
the exact PC and everything but the latch, the controller, the tick position and the requests as it was. -/
def Obligations.PausedTicksFreezeTheMachine : Prop :=
  (∀ (n : Nat) (s : State), s.ctrl = .paused → s.phase = .drain →
    (∀ batch ∈ s.inputs.take n, Request.quit ∉ batch ∧ batch.count .pauseToggle % 2 = 0) →
    ∃ t : State, Host.Core.run Sys2Proof.core n s = .next t ∧
      t = { s with key := t.key, inputs := s.inputs.drop n } ∧ SameRegs s t ∧ SameBytes s t ∧
      ∀ q, t.pressed q = (lastSet q (s.inputs.take n).flatten).getD (s.pressed q)) ∧
  (∀ s : State, s.ctrl = .paused → Request.quit ∉ s.pending → s.pending.count .pauseToggle % 2 = 1 →
    ∃ t, step s = .next t ∧ t.pc = s.pc ∧
      t = { s with key := t.key, ctrl := .running, phase := .execute 11, inputs := s.inputs.tail } ∧
      SameRegs s t ∧ SameBytes s t ∧ ∀ q, t.pressed q = (lastSet q s.pending).getD (s.pressed q))

/-- Derived from R226 and R261 (12 cycles a tick is the spec's decision D11, log 14): a RUNNING tick that is asked
nothing but keys goes on to its 12 cycles; k + 1 cycles that do not halt end at the timer phase with the latch and the
pending requests as they were; then come the timer step, the render hand-off and the next tick's drain. -/
def Obligations.TickRunsItsCyclesThenTheTimer : Prop :=
  (∀ s : State, s.ctrl = .running → s.phase = .drain → (∀ r ∈ s.pending, ∃ k b, r = Request.keySet k b) →
    ∃ t, step s = .next t ∧ t.ctrl = .running ∧ t.phase = .execute 11 ∧ OnlyDrained s t) ∧
  (∀ (k : Nat) (s t : State), s.ctrl = .running → s.phase = .execute k →
    Host.Core.run Sys2Proof.core (k + 1) s = .next t → t.ctrl = .running →
    t.phase = .timer ∧ t.key = s.key ∧ t.inputs = s.inputs) ∧
  (∀ s : State, s.ctrl = .running → s.phase = .timer → ∃ t, step s = .next t ∧ t.phase = .render) ∧
  (∀ s : State, s.ctrl = .running → s.phase = .render → step s = .next { s with phase := .drain })

/-- Derived from R220 and R226 (the tick position is the model's field, log 1; a PAUSED state at any tick position drains:
log 16): the Timer Driver step decrements DT and ST
independently if above 0 and changes nothing else. It comes once in a RUNNING tick: a tick that is RUNNING after its
drain goes on to its cycles, the last of which, and nothing else, leads to the timer step, and the render hand-off and
the next drain follow. In a RUNNING tick the drain, the render hand-off and every cycle but one of FX15 (for DT) or FX18
(for ST) leave the timers alone, and no step of a PAUSED or HALTED machine changes them. -/
def Obligations.TimerStepDecrementsBothTimers : Prop :=
  (∀ s : State, s.ctrl = .running → s.phase = .timer →
    ∃ t, step s = .next t ∧ t.dt.toNat = s.dt.toNat - 1 ∧ t.st.toNat = s.st.toNat - 1 ∧
      t = { s with dt := t.dt, st := t.st, phase := .render } ∧ SameRegs s t ∧ SameBytes s t) ∧
  (∀ (s t : State) (k : Nat), s.ctrl = .running → s.phase = .execute k → step s = .next t → t.ctrl = .running →
    t.phase = if k = 0 then .timer else .execute (k - 1)) ∧
  (∀ s t : State, step s = .next t → t.ctrl = .running → t.phase = .timer → s.ctrl = .running ∧ s.phase = .execute 0) ∧
  (∀ s t : State, s.drainsNext → step s = .next t → t.ctrl = .running → ∃ k, t.phase = .execute k) ∧
  (∀ s t : State, s.ctrl = .running → s.phase = .drain → step s = .next t → t.dt = s.dt ∧ t.st = s.st) ∧
  (∀ s : State, s.ctrl = .running → s.phase = .render → step s = .next { s with phase := .drain }) ∧
  (∀ (s t : State) (k : Nat), s.ctrl = .running → s.phase = .execute k → step s = .next t →
    let op := wordOfBytes (s.readByte s.pc.toNat) (s.readByte (s.pc.toNat + 1))
    (t.dt ≠ s.dt → ∃ x, decode op = .ok (.ldDt x)) ∧ (t.st ≠ s.st → ∃ x, decode op = .ok (.ldSt x))) ∧
  (∀ s t : State, s.ctrl ≠ .running → step s = .next t → t.dt = s.dt ∧ t.st = s.st)

/-- Derived from R222, which the spec derives from R220: after n Timer Driver steps a timer of at most n reads 0, and
stays 0. -/
def Obligations.TimersCountDownToZero : Prop :=
  ∀ (n : Nat) (s : State),
    (timerStep^[n] s).dt.toNat = s.dt.toNat - n ∧ (timerStep^[n] s).st.toNat = s.st.toNat - n ∧
    timerStep^[n] s = { s with dt := (timerStep^[n] s).dt, st := (timerStep^[n] s).st }

/-- Derived from R225, one clause a row (load failures: the spec's decision D21, log 21; requests in arrival order: D12,
log 21; a PAUSED state at any tick position drains: log 16; 12 cycles after a drain: D11, log 14; which cycles fault:
D4, log 13, D6, log 21, and D17, log 20). A drain without a quit toggles RUNNING and PAUSED once for each toggle among its requests,
whatever key events stand between them; one with a quit halts; and a cycle halts with the cause of its fatal fault when
its fetch is out of range or the instruction it fetches faults. -/
def Obligations.ControllerTransitions : Prop :=
  (∀ prog : List Byte, prog.length ≤ 3584 → (State.create (.bytes prog)).ctrl = .running) ∧
  ((State.create .missing).ctrl = .halted ∧ (State.create .missing).halt.cause = .loadFailure) ∧
  (∀ prog : List Byte, 3584 < prog.length →
    (State.create (.bytes prog)).ctrl = .halted ∧ (State.create (.bytes prog)).halt.cause = .loadFailure) ∧
  (∀ s : State, s.drainsNext → Request.quit ∉ s.pending →
    ∃ t, step s = .next t ∧ t.halt = s.halt ∧ t.phase = (if t.ctrl = .running then .execute 11 else .drain) ∧
      t.ctrl = if s.pending.count .pauseToggle % 2 = 0 then s.ctrl
        else if s.ctrl = .running then .paused else .running) ∧
  (∀ s : State, s.drainsNext → Request.quit ∈ s.pending →
    ∃ t, step s = .next t ∧ t.ctrl = .halted ∧ t.halt.cause = .quit) ∧
  (∀ (s : State) (k : Nat), s.ctrl = .running → s.phase = .execute k → 4096 ≤ s.pc.toNat + 1 →
    ∃ t, step s = .next t ∧ t.ctrl = .halted ∧ t.halt.cause = .memOutOfRange) ∧
  (∀ (s : State) (k : Nat) (i : Instr) (c : HaltCause) (a : Nat), s.ctrl = .running → s.phase = .execute k →
    s.pc.toNat + 1 < 4096 →
    decode (wordOfBytes (s.readByte s.pc.toNat) (s.readByte (s.pc.toNat + 1))) = .ok i → faultOf i s = some (c, a) →
    ∃ t, step s = .next t ∧ t.ctrl = .halted ∧ t.halt.cause = c) ∧
  (∀ s : State, s.ctrl = .halted → step s = .next s)

/-- Derived from R225 and R206: the only events that take a RUNNING machine out of RUNNING are a pause or quit request
drained at the start of a tick and a fatal fault in a cycle. -/
def Obligations.OnlyTheseEventsLeaveRunning : Prop :=
  ∀ s t : State, step s = .next t → s.ctrl = .running → t.ctrl ≠ .running →
    (s.phase = .drain ∧ (Request.pauseToggle ∈ s.pending ∨ Request.quit ∈ s.pending)) ∨
    (∃ k, s.phase = .execute k ∧ t.ctrl = .halted ∧
      (t.halt.cause = .stackOverflow ∨ t.halt.cause = .memOutOfRange ∨ t.halt.cause = .keyOutOfRange))

/-- Derived from R226 and R228 (a PAUSED state at any tick position drains: log 16): a quit among the requests of a drain halts the machine before the next cycle, with the cause QUIT and no pc,
op or addr; registers, memory and everything else outside the drain stay as they are. -/
def Obligations.QuitHaltsBeforeTheNextCycle : Prop :=
  ∀ s : State, s.drainsNext → Request.quit ∈ s.pending →
    ∃ t, step s = .next t ∧ t.ctrl = .halted ∧ t.halt = ⟨.quit, none, none, none⟩ ∧ OnlyDrained s t ∧
      SameRegs s t ∧ SameBytes s t

/-- Derived from R226 (the spec's decision D12, log 21; a PAUSED state at any tick position drains: log 16): requests apply in arrival order, and those after a quit are
discarded. -/
def Obligations.QuitDiscardsLaterRequests : Prop :=
  ∀ (s : State) (pre post : List Request) (rest : List (List Request)), s.drainsNext → Request.quit ∉ pre →
    s.inputs = (pre ++ .quit :: post) :: rest →
    ∃ t, step s = .next t ∧ t.ctrl = .halted ∧ t.inputs = rest ∧
      (∀ q, t.pressed q = (lastSet q pre).getD (s.pressed q)) ∧ OnlyDrained s t

/-- Derived from R226 and R29 (the spec's decision D12, log 21; a PAUSED state at any tick position drains: log 16): after
a drain without a quit each key reads what the last of its events set, or as before if it had none; CTRL has been
toggled once for each toggle, and the tick goes on as CTRL says; the latch is the only storage the events reach. -/
def Obligations.DrainedKeyEventsSetTheLatch : Prop :=
  ∀ s : State, s.drainsNext → Request.quit ∉ s.pending →
    ∃ t, step s = .next t ∧ (∀ q, t.pressed q = (lastSet q s.pending).getD (s.pressed q)) ∧
      t.ctrl = Ctrl.toggle^[s.pending.count .pauseToggle] s.ctrl ∧ t.phase = afterDrain t.ctrl ∧
      t.halt = s.halt ∧ t.inputs = s.inputs.tail ∧ OnlyDrained s t

/-! ### Creation -/

/-- Derived from R38, R51, R52, R240 and R241 (KEY, SP and STACK by the spec's decision D24, log 21, and HALT by D14,
log 18; the glyph bytes, written out here from R51's table, from general knowledge, D18, log 6; a program of 0 bytes loads
by D21, log 21): every piece of
state after creation with a program that fits. -/
def Obligations.CreatedMachineState : Prop :=
  ∀ prog : List Byte, prog.length ≤ 3584 →
    let s := State.create (.bytes prog)
    let glyphs : List (List Byte) := [
      [0xF0, 0x90, 0x90, 0x90, 0xF0], [0x20, 0x60, 0x20, 0x20, 0x70], [0xF0, 0x10, 0xF0, 0x80, 0xF0],
      [0xF0, 0x10, 0xF0, 0x10, 0xF0], [0x90, 0x90, 0xF0, 0x10, 0x10], [0xF0, 0x80, 0xF0, 0x10, 0xF0],
      [0xF0, 0x80, 0xF0, 0x90, 0xF0], [0xF0, 0x10, 0x20, 0x40, 0x40], [0xF0, 0x90, 0xF0, 0x90, 0xF0],
      [0xF0, 0x90, 0xF0, 0x10, 0xF0], [0xF0, 0x90, 0xF0, 0x90, 0x90], [0xE0, 0x90, 0xE0, 0x90, 0xE0],
      [0xF0, 0x80, 0x80, 0x80, 0xF0], [0xE0, 0x90, 0x90, 0x90, 0xE0], [0xF0, 0x80, 0xF0, 0x80, 0xF0],
      [0xF0, 0x80, 0xF0, 0x80, 0x80]]
    (∀ r, s.reg r = 0) ∧ s.i = 0 ∧ s.pc = 0x200 ∧ s.sp = 0 ∧ (∀ k : Fin 12, s.stack[k] = 0) ∧ s.dt = 0 ∧ s.st = 0 ∧
    (∀ q, s.pressed q = false) ∧ (∀ x y, s.pixel x y = false) ∧ s.ctrl = .running ∧ s.halt = .empty ∧
    (∀ d k, d < 16 → k < 5 → s.readByte (5 * d + k) = (glyphs.getD d []).getD k 0) ∧
    (∀ a, 80 ≤ a → a < 0x200 → s.readByte a = 0) ∧
    (∀ k, k < prog.length → s.readByte (0x200 + k) = prog.getD k 0) ∧
    (∀ a, 0x200 + prog.length ≤ a → a < 0x1000 → s.readByte a = 0)

/-- Derived from R242 (the spec's decision D21, log 21): a missing or oversized program leaves no byte in memory and a machine
that is HALTED with the cause LOAD_FAILURE and never executes. -/
def Obligations.FailedLoadNeverRuns : Prop :=
  ∀ src : ProgramSource, (src = .missing ∨ ∃ prog : List Byte, src = .bytes prog ∧ 3584 < prog.length) →
    (State.create src).ctrl = .halted ∧ (State.create src).halt = ⟨.loadFailure, none, none, none⟩ ∧
    (∀ a, 0x200 ≤ a → a < 0x1000 → (State.create src).readByte a = 0) ∧
    ∀ n, Host.Core.run Sys2Proof.core n (State.create src) = .next (State.create src)

/-! ### Invariants and whole-machine rules -/

/-- The invariant holds of the machine after reset. -/
def Obligations.ResetMeetsTheInvariant : Prop := State.reset.Inv

/-- The invariant holds of every created machine, whatever the program port brings. -/
def Obligations.CreationMeetsTheInvariant : Prop := ∀ src : ProgramSource, (State.create src).Inv

/-- Derived from R32, R50, R225 and R226: from every state that meets it, every step keeps the invariant: memory in
canonical form with legal addresses, the halt record NONE while not HALTED and shaped as its cause says, PAUSED only
between ticks, never more cycles left than a tick has. -/
def Obligations.EveryStepKeepsTheInvariant : Prop := ∀ s t : State, s.Inv → step s = .next t → t.Inv

/-- Memories in canonical form that read alike at the 4096 addresses are the same data (log 6). -/
def Obligations.CanonicalMemoriesThatReadAlikeAreEqual : Prop :=
  ∀ m n : Memory, m.wf = true → n.wf = true → (∀ a, a < 4096 → m.read a = n.read a) → m = n

/-- Derived from R22, which the spec derives from the instruction rules: "No other instruction reads or writes a
general register", the writing half. -/
def Obligations.OnlyListedRegistersAreWritten : Prop :=
  ∀ (i : Instr) (s t : State) (r : Reg), exec i s = .next t → r ∉ regsWritten i → t.reg r = s.reg r

/-- Derived from R22, which the spec derives from the instruction rules, the reading half, and for what a register keeps from
R207 (which accesses fault: the spec's decisions D4, log 13, and D17, log 20) and R186 (FX0A waits by rewinding PC: D10,
log 21). A register that an instruction
neither reads nor writes has no influence on what it does: changing it before or after gives the same. The old value of
a register that it writes and does not read has none either: it is gone once the instruction completes, and is kept
where nothing is written (a fatal fault, and FX0A while no key is pressed). -/
def Obligations.UnlistedRegistersHaveNoInfluence : Prop :=
  (∀ (i : Instr) (s : State) (r : Reg) (b : Byte), r ∉ regsRead i → r ∉ regsWritten i →
    exec i (s.setReg r b) = mapNext (fun t => t.setReg r b) (exec i s)) ∧
  (∀ (i : Instr) (s : State) (r : Reg) (b : Byte), r ∉ regsRead i → r ∈ regsWritten i → faultOf i s = none →
    (∀ x, i = .ldVxK x → ∃ k, s.pressed k = true) → exec i (s.setReg r b) = exec i s) ∧
  (∀ (i : Instr) (s : State) (r : Reg) (b : Byte), r ∉ regsRead i → r ∈ regsWritten i →
    (faultOf i s ≠ none ∨ ∃ x, i = .ldVxK x ∧ ∀ k, s.pressed k = false) →
    exec i (s.setReg r b) = mapNext (fun t => t.setReg r b) (exec i s))

/-- Derived from R24 to R33 and R58 (which instructions fault: the spec's decisions D4, log 13, D6, log 21, and D17,
log 20): an
instruction changes a special register of R33, the framebuffer, memory, the diagnostics or the random input only if the
spec names it as a writer (CTRL and HALT only where it raises a fatal fault); the latch, the tick position and the
requests are changed by none. -/
def Obligations.SpecialStateHasNamedWriters : Prop :=
  ∀ (i : Instr) (s t : State), exec i s = .next t →
    (t.pc ≠ s.pc → i = .ret ∨ (∃ nnn, i = .jp nnn) ∨ (∃ nnn, i = .call nnn) ∨ (∃ x nn, i = .seImm x nn) ∨
      (∃ x nn, i = .sneImm x nn) ∨ (∃ x y, i = .seReg x y) ∨ (∃ x y, i = .sneReg x y) ∨ (∃ nnn, i = .jpV0 nnn) ∨
      (∃ x, i = .skp x) ∨ (∃ x, i = .sknp x) ∨ ∃ x, i = .ldVxK x) ∧
    (t.ctrl ≠ s.ctrl ∨ t.halt ≠ s.halt → t.ctrl = .halted ∧ faultOf i s ≠ none) ∧
    (t.i ≠ s.i → (∃ nnn, i = .ldI nnn) ∨ (∃ x, i = .addI x) ∨ ∃ x, i = .ldF x) ∧
    (t.dt ≠ s.dt → ∃ x, i = .ldDt x) ∧
    (t.st ≠ s.st → ∃ x, i = .ldSt x) ∧
    (t.sp ≠ s.sp → i = .ret ∨ ∃ nnn, i = .call nnn) ∧
    (t.stack ≠ s.stack → ∃ nnn, i = .call nnn) ∧
    (t.fb ≠ s.fb → i = .cls ∨ ∃ x y n, i = .drw x y n) ∧
    (t.mem ≠ s.mem → (∃ x, i = .ldB x) ∨ ∃ x, i = .ldMemVx x) ∧
    (t.diag ≠ s.diag → i = .ret) ∧
    (t.randIn ≠ s.randIn ∨ t.draws ≠ s.draws → ∃ x nn, i = .rnd x nn) ∧
    t.key = s.key ∧ t.phase = s.phase ∧ t.inputs = s.inputs

/-- Derived from R95, which the spec derives from the instruction rules: an instruction that is no transfer, skip or
key wait ends with PC after its own word. -/
def Obligations.OtherInstructionsKeepTheAdvancedPc : Prop :=
  ∀ (i : Instr) (s t : State), keepsPc i = true → exec i s = .next t → t.pc = s.pc

/-- Derived from R201, R203, R205 to R207 and the instructions' own checks in R101, R112, R163 to R165 and R180 (the
spec's decisions D4, log 13, D6, log 21, D14, log 18, and D17, log 20: DXYN checks the bytes of clipped rows too): an
instruction raises a fatal fault exactly in the listed cases; then HALT holds cause, PC_fetch, opcode and the first offending address, CTRL is
HALTED and nothing else has changed; otherwise it completes and neither CTRL nor HALT changes. -/
def Obligations.FatalFaultsArePreciseAndRecorded : Prop :=
  ∀ (i : Instr) (s : State),
    match faultOf i s with
    | some (c, a) =>
      exec i s = .next { s with ctrl := .halted, halt := ⟨c, some (s.pc - 2), some (encode i), some a⟩ }
    | none => ∃ t, exec i s = .next t ∧ t.ctrl = s.ctrl ∧ t.halt = s.halt

/-! ### Display -/

/-- R100: every pixel off and nothing else changed. -/
def Obligations.ClearScreenTurnsEveryPixelOff : Prop :=
  ∀ s : State, ∃ t, exec .cls s = .next t ∧ (∀ x y, t.pixel x y = false) ∧ t = { s with fb := t.fb } ∧
    SameRegs s t ∧ SameBytes s t

/-- Derived from R101 (bit 7 leftmost and VF after the pixels are the spec's decision D17, log 20): with its n bytes in memory,
DXYN leaves every pixel of the screen XORed with the sprite bit that covers it, clipped at the edges, and VF 1 exactly
when a sprite bit met a pixel that was on; nothing but the framebuffer and VF changes. -/
def Obligations.DrawXorsTheClippedSprite : Prop :=
  ∀ (x y : Reg) (n : Nat) (s : State), n = 0 ∨ s.i.toNat + n ≤ 4096 →
    ∃ t, exec (.drw x y n) s = .next t ∧
      (∀ px py, px < 64 → py < 32 → t.pixel px py = (s.pixel px py ^^ spriteOn x y n s px py)) ∧
      (t.reg regF = 1 ↔ ∃ px py, px < 64 ∧ py < 32 ∧ s.pixel px py = true ∧ spriteOn x y n s px py = true) ∧
      (t.reg regF = 0 ∨ t.reg regF = 1) ∧
      (∀ r, r ≠ regF → t.reg r = s.reg r) ∧ t = { s with fb := t.fb, v := t.v } ∧ SameBytes s t

/-- Derived from R101's pseudocode and W4 ("DXYN drawing is an involution per pixel"): drawing the same sprite at the
same place again restores every pixel. It sets VF to 1 exactly when the sprite has a 1 bit on the screen over a pixel
that was off before the first draw; R101's corner case leaves out that condition, and the pseudocode decides (log 19). -/
def Obligations.DrawingTwiceRestoresTheScreen : Prop :=
  ∀ (x y : Reg) (n : Nat) (s t : State), n = 0 ∨ s.i.toNat + n ≤ 4096 → exec (.drw x y n) s = .next t →
    t.reg x = s.reg x → t.reg y = s.reg y →
    ∃ u, exec (.drw x y n) t = .next u ∧ u.fb = s.fb ∧
      (u.reg regF = 1 ↔
        ∃ px py, px < 64 ∧ py < 32 ∧ s.pixel px py = false ∧ spriteOn x y n s px py = true)

/-- Derived from R30 and R42: bit y*WIDTH + x of the framebuffer view is pixel (x, y). -/
def Obligations.FramebufferViewIsRowMajor : Prop :=
  ∀ (s : State) (x y : Nat), x < 64 → s.fbView (y * 64 + x) = s.pixel x y

/-! ### Control transfer -/

/-- R111: PC is the zero-extended target and nothing else changes. -/
def Obligations.JumpSetsPc : Prop :=
  ∀ (nnn : BitVec 12) (s : State), ∃ t, exec (.jp nnn) s = .next t ∧ t.pc.toNat = nnn.toNat ∧ OnlyPc s t

/-- Derived from R117 (not reduced to 12 bits is the spec's inference): PC is V0 + NNN as a number. -/
def Obligations.JumpV0AddsWithoutMasking : Prop :=
  ∀ (nnn : BitVec 12) (s : State),
    ∃ t, exec (.jpV0 nnn) s = .next t ∧ t.pc.toNat = (s.reg 0).toNat + nnn.toNat ∧ OnlyPc s t

/-- Derived from R113 to R116 (the distance from R96, which the spec derives): each skip leaves PC one word further exactly when its condition holds, and changes nothing else;
5XYn and 9XYn with n not 0, unimplemented as R115 and R116 say (the spec's decision D8, log 21), are no skips. -/
def Obligations.SkipsMovePcByOneWord : Prop :=
  (∀ (x : Reg) (nn : Byte) (s : State), ∃ t, exec (.seImm x nn) s = .next t ∧
    t.pc = (if s.reg x = nn then s.pc + 2 else s.pc) ∧ OnlyPc s t) ∧
  (∀ (x : Reg) (nn : Byte) (s : State), ∃ t, exec (.sneImm x nn) s = .next t ∧
    t.pc = (if s.reg x = nn then s.pc else s.pc + 2) ∧ OnlyPc s t) ∧
  (∀ (x y : Reg) (s : State), ∃ t, exec (.seReg x y) s = .next t ∧
    t.pc = (if s.reg x = s.reg y then s.pc + 2 else s.pc) ∧ OnlyPc s t) ∧
  (∀ (x y : Reg) (s : State), ∃ t, exec (.sneReg x y) s = .next t ∧
    t.pc = (if s.reg x = s.reg y then s.pc else s.pc + 2) ∧ OnlyPc s t) ∧
  (∀ op : Word, fieldN op ≠ 0 → (fieldG op = 0x5 → decode op = .error .unimplementedGroup5) ∧
    (fieldG op = 0x9 → decode op = .error .unimplementedGroup9))

/-- Derived from R112 (the halt at depth 12 is the spec's decision D6, log 21; see FatalFaultsArePreciseAndRecorded): below
capacity, CALL pushes the advanced PC and jumps; no other entry and nothing else changes. -/
def Obligations.CallPushesTheReturnAddress : Prop :=
  ∀ (nnn : BitVec 12) (s : State) (h : s.sp.val < 12),
    ∃ t, exec (.call nnn) s = .next t ∧ t.pc.toNat = nnn.toNat ∧ t.sp.val = s.sp.val + 1 ∧
      t.stack[s.sp.val] = s.pc ∧ (∀ k : Fin 12, k.val ≠ s.sp.val → t.stack[k] = s.stack[k]) ∧ OnlyStack s t

/-- Derived from R110 (the underflow policy is the spec's decision D7, log 21): RET pops into PC; with an empty stack it emits
the diagnostic with PC_fetch and the opcode, and everything else, PC included, stays. -/
def Obligations.ReturnPopsOrReportsUnderflow : Prop :=
  (∀ (s : State) (h : 0 < s.sp.val),
    ∃ t, exec .ret s = .next t ∧ t.pc = s.stack[s.sp.val - 1]'(by omega) ∧ t.sp.val = s.sp.val - 1 ∧
      t.stack = s.stack ∧ OnlyStack s t) ∧
  (∀ s : State, s.sp.val = 0 →
    ∃ t, exec .ret s = .next t ∧ t.diag = ⟨.stackUnderflow, s.pc - 2, 0x00EE⟩ :: s.diag ∧
      t = { s with diag := t.diag } ∧ SameRegs s t ∧ SameBytes s t)

/-- Derived from R110, R112 and W3: a CALL below capacity and a RET wherever the callee stands bring PC back to the
instruction after the CALL and SP back to its depth. -/
def Obligations.CallThenReturnRestoresPc : Prop :=
  ∀ (nnn : BitVec 12) (s : State), s.sp.val < 12 →
    ∃ t, exec (.call nnn) s = .next t ∧
      ∀ a : Word, ∃ u, exec .ret (t.setPc a) = .next u ∧ u.pc = s.pc ∧ u.sp = s.sp ∧ OnlyStack s u

/-! ### Register arithmetic -/

/-- R132 and R134: the loads write VX alone. -/
def Obligations.RegisterLoadsWriteTheDestination : Prop :=
  (∀ (x : Reg) (nn : Byte) (s : State), ∃ t, exec (.ldImm x nn) s = .next t ∧ t.reg x = nn ∧ OnlyRegs [x] s t) ∧
  (∀ (x y : Reg) (s : State), ∃ t, exec (.ldReg x y) s = .next t ∧ t.reg x = s.reg y ∧ OnlyRegs [x] s t)

/-- Derived from R133 and R135 to R137 (that VF is not written is the spec's inference): the sum modulo 256 and the
bitwise operations, each writing VX alone. -/
def Obligations.AddImmediateAndLogicLeaveVfAlone : Prop :=
  (∀ (x : Reg) (nn : Byte) (s : State), ∃ t, exec (.addImm x nn) s = .next t ∧
    (t.reg x).toNat = ((s.reg x).toNat + nn.toNat) % 256 ∧ OnlyRegs [x] s t) ∧
  (∀ (x y : Reg) (s : State), ∃ t, exec (.orReg x y) s = .next t ∧
    (∀ k, (t.reg x).getLsbD k = ((s.reg x).getLsbD k || (s.reg y).getLsbD k)) ∧ OnlyRegs [x] s t) ∧
  (∀ (x y : Reg) (s : State), ∃ t, exec (.andReg x y) s = .next t ∧
    (∀ k, (t.reg x).getLsbD k = ((s.reg x).getLsbD k && (s.reg y).getLsbD k)) ∧ OnlyRegs [x] s t) ∧
  (∀ (x y : Reg) (s : State), ∃ t, exec (.xorReg x y) s = .next t ∧
    (∀ k, (t.reg x).getLsbD k = ((s.reg x).getLsbD k ^^ (s.reg y).getLsbD k)) ∧ OnlyRegs [x] s t)

/-- Derived from R131 and R138, R139, R141 (operands read before the flag write: LATCHED, the spec's decision D3,
log 13): sum and differences modulo 256 in VX, and the carry or no-borrow in VF unless X = 0xF, where the result wins. -/
def Obligations.AddAndSubtractSetCarryAndNoBorrow : Prop :=
  (∀ (x y : Reg) (s : State), ∃ t, exec (.addReg x y) s = .next t ∧
    (t.reg x).toNat = ((s.reg x).toNat + (s.reg y).toNat) % 256 ∧
    (x ≠ regF → (t.reg regF).toNat = ((s.reg x).toNat + (s.reg y).toNat) / 256) ∧ OnlyRegs [x, regF] s t) ∧
  (∀ (x y : Reg) (s : State), ∃ t, exec (.sub x y) s = .next t ∧
    (t.reg x).toNat = ((s.reg x).toNat + 256 - (s.reg y).toNat) % 256 ∧
    (x ≠ regF → (t.reg regF).toNat = if (s.reg y).toNat ≤ (s.reg x).toNat then 1 else 0) ∧
    OnlyRegs [x, regF] s t) ∧
  (∀ (x y : Reg) (s : State), ∃ t, exec (.subn x y) s = .next t ∧
    (t.reg x).toNat = ((s.reg y).toNat + 256 - (s.reg x).toNat) % 256 ∧
    (x ≠ regF → (t.reg regF).toNat = if (s.reg x).toNat ≤ (s.reg y).toNat then 1 else 0) ∧
    OnlyRegs [x, regF] s t)

/-- Derived from R131, R140 and R142 (LATCHED, the spec's decision D3, log 13): VX halved or doubled modulo 256 and the
bit shifted out in VF unless X = 0xF; the same whatever the Y field. -/
def Obligations.ShiftsMoveTheBitOutIntoVf : Prop :=
  (∀ (x y : Reg) (s : State), ∃ t, exec (.shr x y) s = .next t ∧
    (t.reg x).toNat = (s.reg x).toNat / 2 ∧ (x ≠ regF → (t.reg regF).toNat = (s.reg x).toNat % 2) ∧
    OnlyRegs [x, regF] s t) ∧
  (∀ (x y : Reg) (s : State), ∃ t, exec (.shl x y) s = .next t ∧
    (t.reg x).toNat = (s.reg x).toNat * 2 % 256 ∧ (x ≠ regF → (t.reg regF).toNat = (s.reg x).toNat / 128) ∧
    OnlyRegs [x, regF] s t)

/-- Derived from R131 ("the two differ only when X = 0xF or Y = 0xF", the spec's reading N6): the two values of
FLAG_OPERAND_MODE agree when neither operand is VF; and they do differ somewhere when one is. -/
def Obligations.FlagOperandModesDifferOnlyAtVf : Prop :=
  (∀ (flag : Byte → Byte → Bool) (result : Byte → Byte → Byte) (x y : Reg) (s : State), x ≠ regF → y ≠ regF →
    flagOp .sequential flag result x y s = flagOp .latched flag result x y s) ∧
  ∃ s : State, flagOp .sequential carry (fun a b => a + b) 15 2 s ≠ flagOp .latched carry (fun a b => a + b) 15 2 s

/-- Derived from R143 (any value each draw: the spec's decision D16, log 4): VX is the drawn byte masked by NN, each
execution draws once, only VX and the draw change, and every byte can be the draw. -/
def Obligations.RandomMasksAFreshDraw : Prop :=
  (∀ (x : Reg) (nn : Byte) (s : State), ∃ t, exec (.rnd x nn) s = .next t ∧ t.reg x = s.nextRand &&& nn ∧
    t.draws = s.draws + 1 ∧ (∀ r, r ≠ x → t.reg r = s.reg r) ∧ SameBytes s t ∧
    t = { s with v := t.v, randIn := t.randIn, draws := t.draws }) ∧
  (∀ (x : Reg) (nn b : Byte) (s : State), ∃ t, exec (.rnd x nn) { s with randIn := b :: s.randIn } = .next t ∧
    t.reg x = b &&& nn ∧ t.randIn = s.randIn)

/-! ### Index register, loads and stores -/

/-- R160: I is the zero-extended constant and nothing else changes. -/
def Obligations.LoadIndexSetsI : Prop :=
  ∀ (nnn : BitVec 12) (s : State), ∃ t, exec (.ldI nnn) s = .next t ∧ t.i.toNat = nnn.toNat ∧ OnlyIndex s t

/-- Derived from R161 and R162 (no VF write and no 4-bit mask are the spec's inferences): I + VX modulo 65536, and
VX * 5; nothing but I changes. -/
def Obligations.IndexArithmeticChangesOnlyI : Prop :=
  (∀ (x : Reg) (s : State), ∃ t, exec (.addI x) s = .next t ∧
    t.i.toNat = (s.i.toNat + (s.reg x).toNat) % 65536 ∧ OnlyIndex s t) ∧
  (∀ (x : Reg) (s : State), ∃ t, exec (.ldF x) s = .next t ∧ t.i.toNat = (s.reg x).toNat * 5 ∧ OnlyIndex s t)

/-- Derived from R163 (completes when the three addresses exist: OOB_POLICY = HALT, the spec's decision D4, log 13; the
other states are in FatalFaultsArePreciseAndRecorded): three decimal digits that make up VX at I, I + 1, I + 2, every
other byte and everything else unchanged. -/
def Obligations.StoreDecimalDigits : Prop :=
  ∀ (x : Reg) (s : State), s.indexAddr 0 + 3 ≤ 4096 →
    ∃ t, exec (.ldB x) s = .next t ∧
      (s.reg x).toNat = 100 * (t.readByte (s.indexAddr 0)).toNat + 10 * (t.readByte (s.indexAddr 1)).toNat +
        (t.readByte (s.indexAddr 2)).toNat ∧
      (t.readByte (s.indexAddr 1)).toNat ≤ 9 ∧ (t.readByte (s.indexAddr 2)).toNat ≤ 9 ∧
      OnlyStored (s.indexAddr 0) 3 s t

/-- Derived from R164 (completes when its addresses exist: D4, log 13): V0..VX at I, I + 1, ..., I + X, every other byte
and everything else, I included, unchanged. -/
def Obligations.StoreRegistersInOrder : Prop :=
  ∀ (x : Reg) (s : State), s.indexAddr 0 + (x.val + 1) ≤ 4096 →
    ∃ t, exec (.ldMemVx x) s = .next t ∧ (∀ k : Reg, k ≤ x → t.readByte (s.indexAddr k.val) = s.reg k) ∧
      OnlyStored (s.indexAddr 0) (x.val + 1) s t

/-- Derived from R165 (completes when its addresses exist: D4, log 13): V0..VX are the bytes at I, I + 1, ..., I + X;
the other registers and everything else, I included, unchanged. -/
def Obligations.LoadRegistersInOrder : Prop :=
  ∀ (x : Reg) (s : State), s.indexAddr 0 + (x.val + 1) ≤ 4096 →
    ∃ t, exec (.ldVxMem x) s = .next t ∧ (∀ k : Reg, k ≤ x → t.reg k = s.readByte (s.indexAddr k.val)) ∧
      (∀ k : Reg, x < k → t.reg k = s.reg k) ∧ t = { s with v := t.v } ∧ SameBytes s t

/-- Derived from R164 and R165: whatever happens to the registers in between, storing V0..VX and loading V0..VX at the
same I brings back V0..VX. -/
def Obligations.StoreThenLoadRestoresRegisters : Prop :=
  ∀ (x : Reg) (s : State) (w : Vector Byte 16), s.indexAddr 0 + (x.val + 1) ≤ 4096 →
    ∃ t u, exec (.ldMemVx x) s = .next t ∧ exec (.ldVxMem x) (t.setRegs w) = .next u ∧
      ∀ k : Reg, (k ≤ x → u.reg k = s.reg k) ∧ (x < k → u.reg k = w[k])

/-- Derived from R64 and R252 (the spec's decision D22, log 21): two registers stored at PC are the very next opcode fetched. -/
def Obligations.StoredOpcodeIsFetchedNext : Prop :=
  ∀ (x : Reg) (s : State), 1 ≤ x.val → s.indexAddr 0 + (x.val + 1) ≤ 4096 → s.indexAddr 0 = s.pc.toNat →
    ∃ t, exec (.ldMemVx x) s = .next t ∧
      fetch16 Config.oobPolicy t.mem t.pc = .ok (wordOfBytes (s.reg 0) (s.reg 1))

/-! ### Timers and input -/

/-- R183 to R185: the timer transfers; the tone follows ST at once. -/
def Obligations.TimerTransfers : Prop :=
  (∀ (x : Reg) (s : State), ∃ t, exec (.ldVxDt x) s = .next t ∧ t.reg x = s.dt ∧ OnlyRegs [x] s t) ∧
  (∀ (x : Reg) (s : State), ∃ t, exec (.ldDt x) s = .next t ∧ t.dt = s.reg x ∧ t = { s with dt := t.dt } ∧
    SameRegs s t ∧ SameBytes s t) ∧
  (∀ (x : Reg) (s : State), ∃ t, exec (.ldSt x) s = .next t ∧ t.st = s.reg x ∧ t = { s with st := t.st } ∧
    (t.toneActive = true ↔ 0 < (s.reg x).toNat) ∧ SameRegs s t ∧ SameBytes s t)

/-- Derived from R180 to R182 (completes when VX names a key: OOB_POLICY = HALT, the spec's decision D4, log 13; the
other states are in FatalFaultsArePreciseAndRecorded): SKP and SKNP skip exactly when the key VX is, or is not,
pressed. -/
def Obligations.KeySkipsFollowTheLatch : Prop :=
  ∀ (x : Reg) (s : State) (k : Key), (s.reg x).toNat = k.val →
    (∃ t, exec (.skp x) s = .next t ∧ t.pc = (if s.pressed k = true then s.pc + 2 else s.pc) ∧ OnlyPc s t) ∧
    (∃ t, exec (.sknp x) s = .next t ∧ t.pc = (if s.pressed k = true then s.pc else s.pc + 2) ∧ OnlyPc s t)

/-- Derived from R186 (level-sensitive and by rewinding PC: the spec's decision D10, log 21): the lowest pressed key goes to
VX; with no key pressed PC is PC_fetch again, so that a whole cycle leaves everything but the tick position as it
was. -/
def Obligations.WaitForKeyTakesTheLowestOrRewinds : Prop :=
  (∀ (x : Reg) (s : State) (k : Key), s.pressed k = true → (∀ j : Key, j < k → s.pressed j = false) →
    ∃ t, exec (.ldVxK x) s = .next t ∧ (t.reg x).toNat = k.val ∧ OnlyRegs [x] s t) ∧
  (∀ (x : Reg) (s : State), (∀ k : Key, s.pressed k = false) →
    ∃ t, exec (.ldVxK x) s = .next t ∧ t.pc = s.pc - 2 ∧ OnlyPc s t) ∧
  (∀ (x : Reg) (s : State) (k : Nat), s.ctrl = .running → s.phase = .execute k → s.pc.toNat + 1 < 4096 →
    decode (wordOfBytes (s.readByte s.pc.toNat) (s.readByte (s.pc.toNat + 1))) = .ok (.ldVxK x) →
    (∀ q : Key, s.pressed q = false) → step s = .next { s with phase := cyclesLeft k })
end

