-- ==== Sys2Proof/Laws/Decode.lean ====
section
/-!
SUPPORT. The fields of an opcode put together from its digits, and an opcode put back together from its bytes and
fields.
-/

namespace Sys2Proof

/-- Concatenation as arithmetic. -/
theorem toNat_append_add {m n : Nat} (a : BitVec m) (b : BitVec n) : (a ++ b).toNat = a.toNat * 2 ^ n + b.toNat := by
  rw [BitVec.toNat_append, ← Nat.shiftLeft_add_eq_or_of_lt b.isLt, Nat.shiftLeft_eq]

theorem regField_toNat (r : Reg) : (regField r).toNat = r.val := rfl

theorem digits_toNat (g x y n : BitVec 4) :
    (digits g x y n).toNat = g.toNat * 4096 + x.toNat * 256 + y.toNat * 16 + n.toNat := by
  simp only [digits, toNat_append_add]; omega

theorem digitsXNN_toNat (g : BitVec 4) (x : Reg) (nn : Byte) :
    (digitsXNN g x nn).toNat = g.toNat * 4096 + x.val * 256 + nn.toNat := by
  simp only [digitsXNN, toNat_append_add, regField_toNat]; omega

theorem digitsNNN_toNat (g : BitVec 4) (nnn : BitVec 12) :
    (digitsNNN g nnn).toNat = g.toNat * 4096 + nnn.toNat := by
  simp only [digitsNNN, toNat_append_add]; omega

theorem fieldG_toNat (op : Word) : (fieldG op).toNat = op.toNat / 4096 := by
  have := op.isLt
  simp only [fieldG, BitVec.extractLsb'_toNat, Nat.shiftRight_eq_div_pow]; omega

theorem fieldX_val (op : Word) : (fieldX op).val = op.toNat / 256 % 16 := by
  have := op.isLt
  simp only [fieldX, BitVec.val_toFin, BitVec.extractLsb'_toNat, Nat.shiftRight_eq_div_pow]

theorem fieldY_val (op : Word) : (fieldY op).val = op.toNat / 16 % 16 := by
  have := op.isLt
  simp only [fieldY, BitVec.val_toFin, BitVec.extractLsb'_toNat, Nat.shiftRight_eq_div_pow]

theorem fieldN_toNat (op : Word) : (fieldN op).toNat = op.toNat % 16 := by
  have := op.isLt
  simp only [fieldN, BitVec.extractLsb'_toNat, Nat.shiftRight_eq_div_pow]; omega

theorem fieldNN_toNat (op : Word) : (fieldNN op).toNat = op.toNat % 256 := by
  have := op.isLt
  simp only [fieldNN, BitVec.extractLsb'_toNat, Nat.shiftRight_eq_div_pow]; omega

theorem fieldNNN_toNat (op : Word) : (fieldNNN op).toNat = op.toNat % 4096 := by
  have := op.isLt
  simp only [fieldNNN, BitVec.extractLsb'_toNat, Nat.shiftRight_eq_div_pow]; omega

theorem digits_fieldG (g x y n : BitVec 4) : fieldG (digits g x y n) = g := by
  apply BitVec.eq_of_toNat_eq
  rw [fieldG_toNat, digits_toNat]
  have := x.isLt; have := y.isLt; have := n.isLt; omega

theorem digits_fieldX (g y n : BitVec 4) (x : Reg) : fieldX (digits g (regField x) y n) = x := by
  apply Fin.ext
  rw [fieldX_val, digits_toNat, regField_toNat]
  have := g.isLt; have := y.isLt; have := n.isLt; omega

theorem digits_fieldY (g x n : BitVec 4) (y : Reg) : fieldY (digits g x (regField y) n) = y := by
  apply Fin.ext
  rw [fieldY_val, digits_toNat, regField_toNat]
  have := g.isLt; have := x.isLt; have := n.isLt; omega

theorem digits_fieldN (g x y n : BitVec 4) : fieldN (digits g x y n) = n := by
  apply BitVec.eq_of_toNat_eq
  rw [fieldN_toNat, digits_toNat]
  have := n.isLt; omega

theorem digitsXNN_fieldG (g : BitVec 4) (x : Reg) (nn : Byte) : fieldG (digitsXNN g x nn) = g := by
  apply BitVec.eq_of_toNat_eq
  rw [fieldG_toNat, digitsXNN_toNat]
  have := x.isLt; have := nn.isLt; omega

theorem digitsXNN_fieldX (g : BitVec 4) (x : Reg) (nn : Byte) : fieldX (digitsXNN g x nn) = x := by
  apply Fin.ext
  rw [fieldX_val, digitsXNN_toNat]
  have := g.isLt; have := nn.isLt; omega

theorem digitsXNN_fieldNN (g : BitVec 4) (x : Reg) (nn : Byte) : fieldNN (digitsXNN g x nn) = nn := by
  apply BitVec.eq_of_toNat_eq
  rw [fieldNN_toNat, digitsXNN_toNat]
  have := nn.isLt; omega

theorem digitsNNN_fieldG (g : BitVec 4) (nnn : BitVec 12) : fieldG (digitsNNN g nnn) = g := by
  apply BitVec.eq_of_toNat_eq
  rw [fieldG_toNat, digitsNNN_toNat]
  have := nnn.isLt; omega

theorem digitsNNN_fieldNNN (g : BitVec 4) (nnn : BitVec 12) : fieldNNN (digitsNNN g nnn) = nnn := by
  apply BitVec.eq_of_toNat_eq
  rw [fieldNNN_toNat, digitsNNN_toNat]
  have := nnn.isLt; omega

/-- An opcode stored as two bytes is fetched back whole (20_memory.md R53). -/
theorem wordOfBytes_bytes (op : Word) : wordOfBytes (highByte op) (lowByte op) = op := by
  apply BitVec.eq_of_toNat_eq
  have := op.isLt
  simp only [wordOfBytes, toNat_append_add, highByte, lowByte, BitVec.extractLsb'_toNat, Nat.shiftRight_eq_div_pow]
  omega

/-- Decoding the bytes of an opcode decodes the opcode. -/
theorem decodeBytes_bytes (op : Word) (rest : List Byte) :
    decodeBytes (highByte op :: lowByte op :: rest) =
      match decode op with | .ok i => .ok (i, rest) | .error e => .error e := by
  cases h : decode op <;> simp only [decodeBytes, wordOfBytes_bytes, h]

end Sys2Proof
end

