-- ==== Sys2Proof/Laws/Display.lean ====
section
/-!
SUPPORT. Sprite drawing: the row and column loops of DXYN as one formula per pixel (41_display.md R101).
-/

namespace Sys2Proof.Machine

/-- A toggled framebuffer differs in the one pixel only. -/
theorem fbPixel_fbToggle (fb : Framebuffer) (x y px py : Nat) (hx : x < 64) (hy : y < 32) :
    fbPixel (fbToggle fb x y) px py = (fbPixel fb px py ^^ decide (px = x ∧ py = y)) := by
  simp only [fbPixel, fbToggle, hy, dif_pos]
  by_cases hpy : py = y
  · subst hpy
    simp [hy, BitVec.getLsbD_twoPow, hx, eq_comm]
  · have : y ≠ py := fun h => hpy h.symm
    simp [this, hpy]

/-- A clear framebuffer has every pixel off. -/
@[simp] theorem fbPixel_fbClear (x y : Nat) : fbPixel fbClear x y = false := by
  simp only [fbPixel, fbClear]
  by_cases hy : y < 32
  · simp [hy]
  · simp [hy]

/-- Framebuffers agree when all their pixels do. -/
theorem fb_ext {f g : Framebuffer} (h : ∀ x y, x < 64 → y < 32 → fbPixel f x y = fbPixel g x y) : f = g := by
  apply Vector.ext
  intro y hy
  apply BitVec.eq_of_getLsbD_eq
  intro x hx
  simpa [fbPixel, hy] using h x y hx hy

/-- The sprite bits of one row that columns below n have drawn at line y. -/
def rowBit (x0 y : Nat) (row : Byte) (n px py : Nat) : Bool :=
  decide (py = y) && decide (x0 ≤ px) && decide (px < x0 + n) && decide (px < 64) && row.getLsbD (7 - (px - x0))

/-- The first n columns of one row: toggled pixels, and the collision with pixels that were on. -/
theorem drawColumns_spec (x0 y : Nat) (row : Byte) (fb : Framebuffer) (hit : Bool) (hy : y < 32) (n : Nat) :
    (∀ px py, fbPixel ((List.range n).foldl (drawColumn x0 y row) (fb, hit)).1 px py =
      (fbPixel fb px py ^^ rowBit x0 y row n px py)) ∧
    (((List.range n).foldl (drawColumn x0 y row) (fb, hit)).2 = true ↔
      hit = true ∨ ∃ px, fbPixel fb px y = true ∧ rowBit x0 y row n px y = true) := by
  induction n with
  | zero =>
    have none : ∀ px py, rowBit x0 y row 0 px py = false := by
      intro px py; simp [rowBit]
    simp [none]
  | succ n ih =>
    obtain ⟨hp, hc⟩ := ih
    rw [List.range_succ, List.foldl_append, List.foldl_cons, List.foldl_nil]
    generalize (List.range n).foldl (drawColumn x0 y row) (fb, hit) = acc at hp hc
    have key : ∀ px py, rowBit x0 y row (n + 1) px py =
        (rowBit x0 y row n px py ||
          (decide (px = x0 + n ∧ py = y) && decide (x0 + n < 64) && row.getLsbD (7 - n))) := by
      intro px py
      by_cases hpy : py = y
      · by_cases hpx : px = x0 + n
        · subst hpx; simp [rowBit, hpy]
        · have : (px < x0 + (n + 1)) ↔ px < x0 + n := by omega
          simp [rowBit, hpy, hpx, this]
      · simp [rowBit, hpy]
    have fresh : ∀ px py, (px = x0 + n ∧ py = y) → rowBit x0 y row n px py = false := by
      rintro px py ⟨rfl, rfl⟩; simp [rowBit]
    unfold drawColumn
    by_cases hw : Config.width ≤ x0 + n
    · have hw' : ¬ x0 + n < 64 := by simpa [Config.width] using hw
      simp only [hw, if_true]
      refine ⟨fun px py => by rw [hp, key]; simp [hw'], ?_⟩
      rw [hc]; simp [key, hw']
    · have hw' : x0 + n < 64 := by simpa [Config.width] using hw
      simp only [hw, if_false]
      by_cases hb : row.getLsbD (7 - n) = true
      · simp only [hb, if_true]
        constructor
        · intro px py
          rw [fbPixel_fbToggle _ _ _ _ _ hw' hy, hp, key]
          by_cases hq : px = x0 + n ∧ py = y
          · rw [fresh px py hq]; simp [hq, hw', hb]
          · simp [hq]
        · simp only [Bool.or_eq_true, hc, hp, key, hw', hb, decide_true, Bool.and_true]
          constructor
          · rintro ((h | ⟨px, h1, h2⟩) | h)
            · exact .inl h
            · exact .inr ⟨px, h1, .inl h2⟩
            · rw [fresh _ _ ⟨rfl, rfl⟩] at h
              exact .inr ⟨x0 + n, by simpa using h, .inr (by simp)⟩
          · rintro (h | ⟨px, h1, h2 | h2⟩)
            · exact .inl (.inl h)
            · exact .inl (.inr ⟨px, h1, h2⟩)
            · have hq : px = x0 + n := by simpa using h2
              subst hq
              refine .inr ?_
              rw [fresh _ _ ⟨rfl, rfl⟩]; simpa using h1
      · have hb' : row.getLsbD (7 - n) = false := by simpa using hb
        simp only [hb', Bool.false_eq_true, if_false]
        refine ⟨fun px py => by rw [hp, key]; simp [hb'], ?_⟩
        rw [hc]; simp [key, hb']

/-- The sprite bit that covers pixel (px, py), for rows drawn from line y down at column x0: the bit of its row and
column, off outside the sprite and past the right and bottom edges (R101). -/
def spriteBit (x0 y : Nat) (rows : List Byte) (px py : Nat) : Bool :=
  decide (x0 ≤ px) && decide (px < x0 + 8) && decide (px < 64) && decide (y ≤ py) && decide (py < 32) &&
    (rows.getD (py - y) 0).getLsbD (7 - (px - x0))

theorem spriteBit_nil (x0 y px py : Nat) : spriteBit x0 y [] px py = false := by simp [spriteBit]

theorem spriteBit_cons (x0 y : Nat) (row : Byte) (rest : List Byte) (px py : Nat) :
    spriteBit x0 y (row :: rest) px py =
      (if py = y then decide (y < 32) && rowBit x0 y row 8 px py else spriteBit x0 (y + 1) rest px py) := by
  by_cases hpy : py = y
  · subst hpy
    simp only [if_true, spriteBit, rowBit, Nat.sub_self, List.getD_cons_zero, le_refl, decide_true, Bool.true_and]
    by_cases hlt : py < 32 <;> simp [hlt]
  · rw [if_neg hpy]
    by_cases hle : y ≤ py
    · have h1 : y + 1 ≤ py := by omega
      have h2 : py - y = (py - (y + 1)) + 1 := by omega
      simp [spriteBit, hle, h1, h2]
    · have h1 : ¬ y + 1 ≤ py := by omega
      simp [spriteBit, hle, h1]

/-- The drawing of a whole sprite: every pixel is its old value XOR the sprite bit that covers it, and the collision
says whether a sprite bit met a pixel that was on (R101). -/
theorem drawRows_spec (x0 y : Nat) (rows : List Byte) (fb : Framebuffer) (hit : Bool) :
    (∀ px py, fbPixel (drawRows x0 y rows (fb, hit)).1 px py = (fbPixel fb px py ^^ spriteBit x0 y rows px py)) ∧
    ((drawRows x0 y rows (fb, hit)).2 = true ↔
      hit = true ∨ ∃ px py, fbPixel fb px py = true ∧ spriteBit x0 y rows px py = true) := by
  induction rows generalizing y fb hit with
  | nil => simp [drawRows, spriteBit_nil]
  | cons row rest ih =>
    have later : ∀ px py, spriteBit x0 (y + 1) rest px py = true → py ≠ y := by
      rintro px py h rfl; simp [spriteBit] at h
    simp only [drawRows]
    by_cases hy : Config.height ≤ y
    · have hy' : ¬ y < 32 := by simpa [Config.height] using hy
      have same : ∀ px py, spriteBit x0 y (row :: rest) px py = spriteBit x0 (y + 1) rest px py := by
        intro px py
        rw [spriteBit_cons]
        split
        · rename_i h; subst h; simp [hy', spriteBit]
        · rfl
      simp only [drawRow, hy, if_true, same]
      exact ih (y + 1) fb hit
    · have hy' : y < 32 := by simpa [Config.height] using hy
      obtain ⟨hp, hc⟩ := drawColumns_spec x0 y row fb hit hy' 8
      simp only [drawRow, hy, if_false]
      generalize (List.range 8).foldl (drawColumn x0 y row) (fb, hit) = acc at hp hc
      obtain ⟨fb', hit'⟩ := acc
      obtain ⟨ip, ic⟩ := ih (y + 1) fb' hit'
      constructor
      · intro px py
        rw [ip, hp, spriteBit_cons]
        by_cases hpy : py = y
        · subst hpy
          have : spriteBit x0 (py + 1) rest px py = false := by simp [spriteBit]
          simp [this, hy']
        · simp [hpy, rowBit]
      · rw [ic, hc]
        simp only [hp, spriteBit_cons]
        constructor
        · rintro ((h | ⟨px, h1, h2⟩) | ⟨px, py, h1, h2⟩)
          · exact .inl h
          · exact .inr ⟨px, y, h1, by simp [hy', h2]⟩
          · have hpy := later px py h2
            refine .inr ⟨px, py, ?_, by simp [hpy, h2]⟩
            simpa [rowBit, hpy] using h1
        · rintro (h | ⟨px, py, h1, h2⟩)
          · exact .inl (.inl h)
          · by_cases hpy : py = y
            · subst hpy
              exact .inl (.inr ⟨px, h1, by simpa [hy'] using h2⟩)
            · rw [if_neg hpy] at h2
              exact .inr ⟨px, py, by simpa [rowBit, hpy] using h1, h2⟩

end Sys2Proof.Machine
end

