-- ==== Sys2Proof/Laws/Memory.lean ====
section
/-!
SUPPORT. Memory: a read after a write, the runs of bytes, and the canonical form, which every operation keeps.
-/

namespace Sys2Proof.Machine

/-! ### Cells -/

theorem readCells_eraseCell (cells : List Host.Cell) (a b : Nat) :
    readCells (eraseCell a cells) b = if b = a then creationByte a else readCells cells b := by
  induction cells with
  | nil => simp only [eraseCell, List.filter_nil, readCells]; split <;> simp_all
  | cons c rest ih =>
    obtain ⟨k, v⟩ := c
    simp only [eraseCell] at ih
    by_cases hk : k = a
    · subst hk
      simp only [eraseCell, List.filter_cons, ne_eq, not_true_eq_false, decide_false, Bool.false_eq_true, if_false,
        ih, readCells]
      split <;> rfl
    · simp only [eraseCell, List.filter_cons, ne_eq, hk, not_false_eq_true, decide_true, if_true, readCells, ih]
      by_cases hb : b = k
      · subst hb; simp [hk]
      · simp [hb]

theorem readCells_insertCell (cells : List Host.Cell) (a b : Nat) (v : Byte)
    (fresh : ∀ c ∈ cells, c.1 ≠ a) :
    readCells (insertCell a v cells) b = if b = a then v else readCells cells b := by
  induction cells with
  | nil => simp [insertCell, readCells]
  | cons c rest ih =>
    obtain ⟨k, w⟩ := c
    have hk : k ≠ a := fresh (k, w) (by simp)
    have ih := ih (fun c hc => fresh c (by simp [hc]))
    by_cases hlt : a < k
    · simp [insertCell, hlt, readCells]
    · simp only [insertCell, hlt, if_false, readCells, ih]
      by_cases hb : b = k
      · subst hb; simp [hk]
      · simp [hb]

theorem eraseCell_fresh (cells : List Host.Cell) (a : Nat) : ∀ c ∈ eraseCell a cells, c.1 ≠ a := by
  intro c hc
  simpa [eraseCell] using (List.mem_filter.mp hc).2

/-! ### One byte -/

/-- A byte read after a byte write: the written byte at its address, the old one elsewhere (R57). -/
theorem Memory.get_put (m : Memory) (a b : Nat) (v : Byte) :
    (m.put a v).get b = if b = a then v else m.get b := by
  unfold Memory.put
  split
  · rename_i h
    simp only [Memory.get, readCells_eraseCell, h]
  · simp only [Memory.get, readCells_insertCell _ _ _ _ (eraseCell_fresh m.cells a), readCells_eraseCell]
    by_cases hb : b = a <;> simp [hb]

/-- `MemRead` after `MemWrite` at legal addresses (R57). -/
theorem Memory.read_write (m : Memory) (a b : Nat) (v : Byte) (ha : a < 4096) (hb : b < 4096) :
    (m.write a v).read b = if b = a then v else m.read b := by
  simp only [Memory.read, Memory.write, Memory.get_put, Nat.mod_eq_of_lt ha, Nat.mod_eq_of_lt hb]

/-- Memory before anything is written holds its creation bytes (R38). -/
theorem Memory.read_empty (a : Nat) (ha : a < 4096) : Memory.read ⟨[]⟩ a = creationByte a := by
  simp [Memory.read, Memory.get, readCells, Nat.mod_eq_of_lt ha]

/-! ### Runs of bytes -/

@[simp] theorem Memory.readBytes_length (m : Memory) (a n : Nat) : (m.readBytes a n).length = n := by
  induction n generalizing a with
  | zero => rfl
  | succ n ih => simp [Memory.readBytes, ih]

/-- Byte k of a run is the byte at a + k. -/
theorem Memory.readBytes_getElem (m : Memory) (a n k : Nat) (h : k < (m.readBytes a n).length) :
    (m.readBytes a n)[k] = m.read (a + k) := by
  induction n generalizing a k with
  | zero => simp [Memory.readBytes] at h
  | succ n ih =>
    cases k with
    | zero => simp [Memory.readBytes]
    | succ k =>
      simp only [Memory.readBytes, List.getElem_cons_succ]
      rw [ih]
      congr 1
      omega

/-- A byte read after a run of writes inside memory: byte b - a of the run inside it, the old byte outside. -/
theorem Memory.read_writeBytes (m : Memory) (a b : Nat) (bytes : List Byte) (h : a + bytes.length ≤ 4096)
    (hb : b < 4096) :
    (m.writeBytes a bytes).read b =
      if a ≤ b ∧ b < a + bytes.length then bytes.getD (b - a) 0 else m.read b := by
  induction bytes generalizing m a with
  | nil => simp [Memory.writeBytes]
  | cons v rest ih =>
    simp only [List.length_cons] at h ⊢
    simp only [Memory.writeBytes]
    rw [ih _ _ (by omega), Memory.read_write _ _ _ _ (by omega) hb]
    by_cases hba : b = a
    · subst hba
      simp
    · by_cases hin : a + 1 ≤ b ∧ b < a + 1 + rest.length
      · have hin' : a ≤ b ∧ b < a + (rest.length + 1) := by omega
        have hd : b - a = (b - (a + 1)) + 1 := by omega
        simp only [hin, hin', and_self, if_true, hd, List.getD_cons_succ]
      · have hin' : ¬ (a ≤ b ∧ b < a + (rest.length + 1)) := by omega
        simp only [hin, hin', if_false, hba]

/-! ### The canonical form -/

/-- `risingCells` as the library's pairwise order. -/
theorem risingCells_iff (cells : List Host.Cell) :
    risingCells cells = true ↔ cells.Pairwise (fun c d => c.1 < d.1) := by
  induction cells with
  | nil => simp [risingCells]
  | cons c rest ih =>
    obtain ⟨a, v⟩ := c
    cases rest with
    | nil => simp [risingCells]
    | cons d rest =>
      obtain ⟨b, w⟩ := d
      rw [risingCells, Bool.and_eq_true, ih, List.pairwise_cons (a := (a, v))]
      simp only [decide_eq_true_eq, List.mem_cons, forall_eq_or_imp]
      constructor
      · rintro ⟨hab, hp⟩
        refine ⟨⟨hab, fun c hc => ?_⟩, hp⟩
        have := (List.pairwise_cons.mp hp).1 c hc
        exact lt_trans hab this
      · rintro ⟨⟨hab, -⟩, hp⟩
        exact ⟨hab, hp⟩

/-- The canonical form in words. -/
theorem Memory.wf_iff (m : Memory) :
    m.wf = true ↔ m.cells.Pairwise (fun c d => c.1 < d.1) ∧
      ∀ c ∈ m.cells, c.1 < 4096 ∧ c.2 ≠ creationByte c.1 := by
  simp [Memory.wf, risingCells_iff]

theorem mem_insertCell (cells : List Host.Cell) (a : Nat) (v : Byte) (c : Host.Cell) :
    c ∈ insertCell a v cells ↔ c = (a, v) ∨ c ∈ cells := by
  induction cells with
  | nil => simp [insertCell]
  | cons d rest ih =>
    obtain ⟨k, w⟩ := d
    by_cases hlt : a < k
    · simp [insertCell, hlt]
    · simp only [insertCell, hlt, if_false, List.mem_cons, ih]
      tauto

theorem pairwise_insertCell (cells : List Host.Cell) (a : Nat) (v : Byte)
    (h : cells.Pairwise (fun c d => c.1 < d.1)) (fresh : ∀ c ∈ cells, c.1 ≠ a) :
    (insertCell a v cells).Pairwise (fun c d => c.1 < d.1) := by
  induction cells with
  | nil => simp [insertCell]
  | cons d rest ih =>
    obtain ⟨k, w⟩ := d
    obtain ⟨hd, hr⟩ := List.pairwise_cons.mp h
    have hk : k ≠ a := fresh (k, w) (by simp)
    by_cases hlt : a < k
    · simp only [insertCell, hlt, if_true]
      refine List.pairwise_cons.mpr ⟨?_, h⟩
      intro c hc
      rcases List.mem_cons.mp hc with rfl | hc
      · exact hlt
      · exact lt_trans hlt (hd c hc)
    · simp only [insertCell, hlt, if_false]
      refine List.pairwise_cons.mpr ⟨?_, ih hr (fun c hc => fresh c (by simp [hc]))⟩
      intro c hc
      rcases (mem_insertCell _ _ _ _).mp hc with rfl | hc
      · show k < a; omega
      · exact hd c hc

/-- A byte write at a legal address keeps the canonical form. -/
theorem Memory.wf_put (m : Memory) (a : Nat) (v : Byte) (ha : a < 4096) (h : m.wf = true) :
    (m.put a v).wf = true := by
  rw [Memory.wf_iff] at h
  have hp : (eraseCell a m.cells).Pairwise (fun c d => c.1 < d.1) := h.1.filter _
  have hm : ∀ c ∈ eraseCell a m.cells, c.1 < 4096 ∧ c.2 ≠ creationByte c.1 :=
    fun c hc => h.2 c (List.mem_filter.mp hc).1
  rw [Memory.wf_iff]
  unfold Memory.put
  split
  · exact ⟨hp, hm⟩
  · rename_i hv
    refine ⟨pairwise_insertCell _ _ _ hp (eraseCell_fresh _ _), ?_⟩
    intro c hc
    rcases (mem_insertCell _ _ _ _).mp hc with rfl | hc
    · exact ⟨ha, hv⟩
    · exact hm c hc

/-- `MemWrite` keeps the canonical form. -/
theorem Memory.wf_write (m : Memory) (a : Nat) (v : Byte) (h : m.wf = true) : (m.write a v).wf = true :=
  m.wf_put _ _ (Nat.mod_lt _ (by decide)) h

/-- A run of writes keeps the canonical form. -/
theorem Memory.wf_writeBytes (m : Memory) (a : Nat) (bytes : List Byte) (h : m.wf = true) :
    (m.writeBytes a bytes).wf = true := by
  induction bytes generalizing m a with
  | nil => exact h
  | cons v rest ih => exact ih _ _ (m.wf_write a v h)

/-- Memory with nothing listed is in canonical form. -/
theorem Memory.wf_empty : Memory.wf ⟨[]⟩ = true := by decide

end Sys2Proof.Machine
end

