-- ==== Sys2Proof/Laws/State.lean ====
section
/-!
SUPPORT. What each named update of State leaves in each field, and which reads it cannot change: one lemma per field
per update, so that no later proof unfolds a record update.
-/

namespace Sys2Proof.Machine

/-! ### setReg -/

@[simp] theorem State.setReg_v (s : State) (r : Reg) (b : Byte) : (s.setReg r b).v = s.v.set r b := rfl
@[simp] theorem State.setReg_i (s : State) (r : Reg) (b : Byte) : (s.setReg r b).i = s.i := rfl
@[simp] theorem State.setReg_pc (s : State) (r : Reg) (b : Byte) : (s.setReg r b).pc = s.pc := rfl
@[simp] theorem State.setReg_stack (s : State) (r : Reg) (b : Byte) : (s.setReg r b).stack = s.stack := rfl
@[simp] theorem State.setReg_sp (s : State) (r : Reg) (b : Byte) : (s.setReg r b).sp = s.sp := rfl
@[simp] theorem State.setReg_dt (s : State) (r : Reg) (b : Byte) : (s.setReg r b).dt = s.dt := rfl
@[simp] theorem State.setReg_st (s : State) (r : Reg) (b : Byte) : (s.setReg r b).st = s.st := rfl
@[simp] theorem State.setReg_key (s : State) (r : Reg) (b : Byte) : (s.setReg r b).key = s.key := rfl
@[simp] theorem State.setReg_fb (s : State) (r : Reg) (b : Byte) : (s.setReg r b).fb = s.fb := rfl
@[simp] theorem State.setReg_mem (s : State) (r : Reg) (b : Byte) : (s.setReg r b).mem = s.mem := rfl
@[simp] theorem State.setReg_ctrl (s : State) (r : Reg) (b : Byte) : (s.setReg r b).ctrl = s.ctrl := rfl
@[simp] theorem State.setReg_halt (s : State) (r : Reg) (b : Byte) : (s.setReg r b).halt = s.halt := rfl
@[simp] theorem State.setReg_phase (s : State) (r : Reg) (b : Byte) : (s.setReg r b).phase = s.phase := rfl
@[simp] theorem State.setReg_inputs (s : State) (r : Reg) (b : Byte) : (s.setReg r b).inputs = s.inputs := rfl
@[simp] theorem State.setReg_randIn (s : State) (r : Reg) (b : Byte) : (s.setReg r b).randIn = s.randIn := rfl
@[simp] theorem State.setReg_draws (s : State) (r : Reg) (b : Byte) : (s.setReg r b).draws = s.draws := rfl
@[simp] theorem State.setReg_diag (s : State) (r : Reg) (b : Byte) : (s.setReg r b).diag = s.diag := rfl
@[simp] theorem State.setReg_readByte (s : State) (r : Reg) (b : Byte) (a' : Nat) :
    (s.setReg r b).readByte a' = s.readByte a' := rfl
@[simp] theorem State.setReg_pixel (s : State) (r : Reg) (b : Byte) (x y : Nat) :
    (s.setReg r b).pixel x y = s.pixel x y := rfl
@[simp] theorem State.setReg_pressed (s : State) (r : Reg) (b : Byte) (q : Key) :
    (s.setReg r b).pressed q = s.pressed q := rfl
@[simp] theorem State.setReg_pcFetch (s : State) (r : Reg) (b : Byte) :
    (s.setReg r b).pcFetch = s.pcFetch := rfl
@[simp] theorem State.setReg_nextRand (s : State) (r : Reg) (b : Byte) :
    (s.setReg r b).nextRand = s.nextRand := rfl
@[simp] theorem State.setReg_indexAddr (s : State) (r : Reg) (b : Byte) (n : Nat) :
    (s.setReg r b).indexAddr n = s.indexAddr n := rfl

/-! ### setRegs -/

@[simp] theorem State.setRegs_v (s : State) (w : Vector Byte 16) : (s.setRegs w).v = w := rfl
@[simp] theorem State.setRegs_i (s : State) (w : Vector Byte 16) : (s.setRegs w).i = s.i := rfl
@[simp] theorem State.setRegs_pc (s : State) (w : Vector Byte 16) : (s.setRegs w).pc = s.pc := rfl
@[simp] theorem State.setRegs_stack (s : State) (w : Vector Byte 16) : (s.setRegs w).stack = s.stack := rfl
@[simp] theorem State.setRegs_sp (s : State) (w : Vector Byte 16) : (s.setRegs w).sp = s.sp := rfl
@[simp] theorem State.setRegs_dt (s : State) (w : Vector Byte 16) : (s.setRegs w).dt = s.dt := rfl
@[simp] theorem State.setRegs_st (s : State) (w : Vector Byte 16) : (s.setRegs w).st = s.st := rfl
@[simp] theorem State.setRegs_key (s : State) (w : Vector Byte 16) : (s.setRegs w).key = s.key := rfl
@[simp] theorem State.setRegs_fb (s : State) (w : Vector Byte 16) : (s.setRegs w).fb = s.fb := rfl
@[simp] theorem State.setRegs_mem (s : State) (w : Vector Byte 16) : (s.setRegs w).mem = s.mem := rfl
@[simp] theorem State.setRegs_ctrl (s : State) (w : Vector Byte 16) : (s.setRegs w).ctrl = s.ctrl := rfl
@[simp] theorem State.setRegs_halt (s : State) (w : Vector Byte 16) : (s.setRegs w).halt = s.halt := rfl
@[simp] theorem State.setRegs_phase (s : State) (w : Vector Byte 16) : (s.setRegs w).phase = s.phase := rfl
@[simp] theorem State.setRegs_inputs (s : State) (w : Vector Byte 16) : (s.setRegs w).inputs = s.inputs := rfl
@[simp] theorem State.setRegs_randIn (s : State) (w : Vector Byte 16) : (s.setRegs w).randIn = s.randIn := rfl
@[simp] theorem State.setRegs_draws (s : State) (w : Vector Byte 16) : (s.setRegs w).draws = s.draws := rfl
@[simp] theorem State.setRegs_diag (s : State) (w : Vector Byte 16) : (s.setRegs w).diag = s.diag := rfl
@[simp] theorem State.setRegs_readByte (s : State) (w : Vector Byte 16) (a' : Nat) :
    (s.setRegs w).readByte a' = s.readByte a' := rfl
@[simp] theorem State.setRegs_pixel (s : State) (w : Vector Byte 16) (x y : Nat) :
    (s.setRegs w).pixel x y = s.pixel x y := rfl
@[simp] theorem State.setRegs_pressed (s : State) (w : Vector Byte 16) (q : Key) :
    (s.setRegs w).pressed q = s.pressed q := rfl
@[simp] theorem State.setRegs_pcFetch (s : State) (w : Vector Byte 16) :
    (s.setRegs w).pcFetch = s.pcFetch := rfl
@[simp] theorem State.setRegs_nextRand (s : State) (w : Vector Byte 16) :
    (s.setRegs w).nextRand = s.nextRand := rfl
@[simp] theorem State.setRegs_indexAddr (s : State) (w : Vector Byte 16) (n : Nat) :
    (s.setRegs w).indexAddr n = s.indexAddr n := rfl

/-! ### setI -/

@[simp] theorem State.setI_v (s : State) (a : Word) : (s.setI a).v = s.v := rfl
@[simp] theorem State.setI_i (s : State) (a : Word) : (s.setI a).i = a := rfl
@[simp] theorem State.setI_pc (s : State) (a : Word) : (s.setI a).pc = s.pc := rfl
@[simp] theorem State.setI_stack (s : State) (a : Word) : (s.setI a).stack = s.stack := rfl
@[simp] theorem State.setI_sp (s : State) (a : Word) : (s.setI a).sp = s.sp := rfl
@[simp] theorem State.setI_dt (s : State) (a : Word) : (s.setI a).dt = s.dt := rfl
@[simp] theorem State.setI_st (s : State) (a : Word) : (s.setI a).st = s.st := rfl
@[simp] theorem State.setI_key (s : State) (a : Word) : (s.setI a).key = s.key := rfl
@[simp] theorem State.setI_fb (s : State) (a : Word) : (s.setI a).fb = s.fb := rfl
@[simp] theorem State.setI_mem (s : State) (a : Word) : (s.setI a).mem = s.mem := rfl
@[simp] theorem State.setI_ctrl (s : State) (a : Word) : (s.setI a).ctrl = s.ctrl := rfl
@[simp] theorem State.setI_halt (s : State) (a : Word) : (s.setI a).halt = s.halt := rfl
@[simp] theorem State.setI_phase (s : State) (a : Word) : (s.setI a).phase = s.phase := rfl
@[simp] theorem State.setI_inputs (s : State) (a : Word) : (s.setI a).inputs = s.inputs := rfl
@[simp] theorem State.setI_randIn (s : State) (a : Word) : (s.setI a).randIn = s.randIn := rfl
@[simp] theorem State.setI_draws (s : State) (a : Word) : (s.setI a).draws = s.draws := rfl
@[simp] theorem State.setI_diag (s : State) (a : Word) : (s.setI a).diag = s.diag := rfl
@[simp] theorem State.setI_reg (s : State) (a : Word) (q : Reg) :
    (s.setI a).reg q = s.reg q := rfl
@[simp] theorem State.setI_readByte (s : State) (a : Word) (a' : Nat) :
    (s.setI a).readByte a' = s.readByte a' := rfl
@[simp] theorem State.setI_pixel (s : State) (a : Word) (x y : Nat) :
    (s.setI a).pixel x y = s.pixel x y := rfl
@[simp] theorem State.setI_pressed (s : State) (a : Word) (q : Key) :
    (s.setI a).pressed q = s.pressed q := rfl
@[simp] theorem State.setI_pcFetch (s : State) (a : Word) :
    (s.setI a).pcFetch = s.pcFetch := rfl
@[simp] theorem State.setI_nextRand (s : State) (a : Word) :
    (s.setI a).nextRand = s.nextRand := rfl

/-! ### setPc -/

@[simp] theorem State.setPc_v (s : State) (a : Word) : (s.setPc a).v = s.v := rfl
@[simp] theorem State.setPc_i (s : State) (a : Word) : (s.setPc a).i = s.i := rfl
@[simp] theorem State.setPc_pc (s : State) (a : Word) : (s.setPc a).pc = a := rfl
@[simp] theorem State.setPc_stack (s : State) (a : Word) : (s.setPc a).stack = s.stack := rfl
@[simp] theorem State.setPc_sp (s : State) (a : Word) : (s.setPc a).sp = s.sp := rfl
@[simp] theorem State.setPc_dt (s : State) (a : Word) : (s.setPc a).dt = s.dt := rfl
@[simp] theorem State.setPc_st (s : State) (a : Word) : (s.setPc a).st = s.st := rfl
@[simp] theorem State.setPc_key (s : State) (a : Word) : (s.setPc a).key = s.key := rfl
@[simp] theorem State.setPc_fb (s : State) (a : Word) : (s.setPc a).fb = s.fb := rfl
@[simp] theorem State.setPc_mem (s : State) (a : Word) : (s.setPc a).mem = s.mem := rfl
@[simp] theorem State.setPc_ctrl (s : State) (a : Word) : (s.setPc a).ctrl = s.ctrl := rfl
@[simp] theorem State.setPc_halt (s : State) (a : Word) : (s.setPc a).halt = s.halt := rfl
@[simp] theorem State.setPc_phase (s : State) (a : Word) : (s.setPc a).phase = s.phase := rfl
@[simp] theorem State.setPc_inputs (s : State) (a : Word) : (s.setPc a).inputs = s.inputs := rfl
@[simp] theorem State.setPc_randIn (s : State) (a : Word) : (s.setPc a).randIn = s.randIn := rfl
@[simp] theorem State.setPc_draws (s : State) (a : Word) : (s.setPc a).draws = s.draws := rfl
@[simp] theorem State.setPc_diag (s : State) (a : Word) : (s.setPc a).diag = s.diag := rfl
@[simp] theorem State.setPc_reg (s : State) (a : Word) (q : Reg) :
    (s.setPc a).reg q = s.reg q := rfl
@[simp] theorem State.setPc_readByte (s : State) (a : Word) (a' : Nat) :
    (s.setPc a).readByte a' = s.readByte a' := rfl
@[simp] theorem State.setPc_pixel (s : State) (a : Word) (x y : Nat) :
    (s.setPc a).pixel x y = s.pixel x y := rfl
@[simp] theorem State.setPc_pressed (s : State) (a : Word) (q : Key) :
    (s.setPc a).pressed q = s.pressed q := rfl
@[simp] theorem State.setPc_nextRand (s : State) (a : Word) :
    (s.setPc a).nextRand = s.nextRand := rfl
@[simp] theorem State.setPc_indexAddr (s : State) (a : Word) (n : Nat) :
    (s.setPc a).indexAddr n = s.indexAddr n := rfl

/-! ### advance -/

@[simp] theorem State.advance_v (s : State) : (s.advance).v = s.v := rfl
@[simp] theorem State.advance_i (s : State) : (s.advance).i = s.i := rfl
@[simp] theorem State.advance_pc (s : State) : (s.advance).pc = s.pc + 2 := rfl
@[simp] theorem State.advance_stack (s : State) : (s.advance).stack = s.stack := rfl
@[simp] theorem State.advance_sp (s : State) : (s.advance).sp = s.sp := rfl
@[simp] theorem State.advance_dt (s : State) : (s.advance).dt = s.dt := rfl
@[simp] theorem State.advance_st (s : State) : (s.advance).st = s.st := rfl
@[simp] theorem State.advance_key (s : State) : (s.advance).key = s.key := rfl
@[simp] theorem State.advance_fb (s : State) : (s.advance).fb = s.fb := rfl
@[simp] theorem State.advance_mem (s : State) : (s.advance).mem = s.mem := rfl
@[simp] theorem State.advance_ctrl (s : State) : (s.advance).ctrl = s.ctrl := rfl
@[simp] theorem State.advance_halt (s : State) : (s.advance).halt = s.halt := rfl
@[simp] theorem State.advance_phase (s : State) : (s.advance).phase = s.phase := rfl
@[simp] theorem State.advance_inputs (s : State) : (s.advance).inputs = s.inputs := rfl
@[simp] theorem State.advance_randIn (s : State) : (s.advance).randIn = s.randIn := rfl
@[simp] theorem State.advance_draws (s : State) : (s.advance).draws = s.draws := rfl
@[simp] theorem State.advance_diag (s : State) : (s.advance).diag = s.diag := rfl
@[simp] theorem State.advance_reg (s : State) (q : Reg) :
    (s.advance).reg q = s.reg q := rfl
@[simp] theorem State.advance_readByte (s : State) (a' : Nat) :
    (s.advance).readByte a' = s.readByte a' := rfl
@[simp] theorem State.advance_pixel (s : State) (x y : Nat) :
    (s.advance).pixel x y = s.pixel x y := rfl
@[simp] theorem State.advance_pressed (s : State) (q : Key) :
    (s.advance).pressed q = s.pressed q := rfl
@[simp] theorem State.advance_nextRand (s : State) :
    (s.advance).nextRand = s.nextRand := rfl
@[simp] theorem State.advance_indexAddr (s : State) (n : Nat) :
    (s.advance).indexAddr n = s.indexAddr n := rfl

/-! ### skip -/

@[simp] theorem State.skip_v (s : State) : (s.skip).v = s.v := rfl
@[simp] theorem State.skip_i (s : State) : (s.skip).i = s.i := rfl
@[simp] theorem State.skip_pc (s : State) : (s.skip).pc = s.pc + 2 := rfl
@[simp] theorem State.skip_stack (s : State) : (s.skip).stack = s.stack := rfl
@[simp] theorem State.skip_sp (s : State) : (s.skip).sp = s.sp := rfl
@[simp] theorem State.skip_dt (s : State) : (s.skip).dt = s.dt := rfl
@[simp] theorem State.skip_st (s : State) : (s.skip).st = s.st := rfl
@[simp] theorem State.skip_key (s : State) : (s.skip).key = s.key := rfl
@[simp] theorem State.skip_fb (s : State) : (s.skip).fb = s.fb := rfl
@[simp] theorem State.skip_mem (s : State) : (s.skip).mem = s.mem := rfl
@[simp] theorem State.skip_ctrl (s : State) : (s.skip).ctrl = s.ctrl := rfl
@[simp] theorem State.skip_halt (s : State) : (s.skip).halt = s.halt := rfl
@[simp] theorem State.skip_phase (s : State) : (s.skip).phase = s.phase := rfl
@[simp] theorem State.skip_inputs (s : State) : (s.skip).inputs = s.inputs := rfl
@[simp] theorem State.skip_randIn (s : State) : (s.skip).randIn = s.randIn := rfl
@[simp] theorem State.skip_draws (s : State) : (s.skip).draws = s.draws := rfl
@[simp] theorem State.skip_diag (s : State) : (s.skip).diag = s.diag := rfl
@[simp] theorem State.skip_reg (s : State) (q : Reg) :
    (s.skip).reg q = s.reg q := rfl
@[simp] theorem State.skip_readByte (s : State) (a' : Nat) :
    (s.skip).readByte a' = s.readByte a' := rfl
@[simp] theorem State.skip_pixel (s : State) (x y : Nat) :
    (s.skip).pixel x y = s.pixel x y := rfl
@[simp] theorem State.skip_pressed (s : State) (q : Key) :
    (s.skip).pressed q = s.pressed q := rfl
@[simp] theorem State.skip_nextRand (s : State) :
    (s.skip).nextRand = s.nextRand := rfl
@[simp] theorem State.skip_indexAddr (s : State) (n : Nat) :
    (s.skip).indexAddr n = s.indexAddr n := rfl

/-! ### setDt -/

@[simp] theorem State.setDt_v (s : State) (b : Byte) : (s.setDt b).v = s.v := rfl
@[simp] theorem State.setDt_i (s : State) (b : Byte) : (s.setDt b).i = s.i := rfl
@[simp] theorem State.setDt_pc (s : State) (b : Byte) : (s.setDt b).pc = s.pc := rfl
@[simp] theorem State.setDt_stack (s : State) (b : Byte) : (s.setDt b).stack = s.stack := rfl
@[simp] theorem State.setDt_sp (s : State) (b : Byte) : (s.setDt b).sp = s.sp := rfl
@[simp] theorem State.setDt_dt (s : State) (b : Byte) : (s.setDt b).dt = b := rfl
@[simp] theorem State.setDt_st (s : State) (b : Byte) : (s.setDt b).st = s.st := rfl
@[simp] theorem State.setDt_key (s : State) (b : Byte) : (s.setDt b).key = s.key := rfl
@[simp] theorem State.setDt_fb (s : State) (b : Byte) : (s.setDt b).fb = s.fb := rfl
@[simp] theorem State.setDt_mem (s : State) (b : Byte) : (s.setDt b).mem = s.mem := rfl
@[simp] theorem State.setDt_ctrl (s : State) (b : Byte) : (s.setDt b).ctrl = s.ctrl := rfl
@[simp] theorem State.setDt_halt (s : State) (b : Byte) : (s.setDt b).halt = s.halt := rfl
@[simp] theorem State.setDt_phase (s : State) (b : Byte) : (s.setDt b).phase = s.phase := rfl
@[simp] theorem State.setDt_inputs (s : State) (b : Byte) : (s.setDt b).inputs = s.inputs := rfl
@[simp] theorem State.setDt_randIn (s : State) (b : Byte) : (s.setDt b).randIn = s.randIn := rfl
@[simp] theorem State.setDt_draws (s : State) (b : Byte) : (s.setDt b).draws = s.draws := rfl
@[simp] theorem State.setDt_diag (s : State) (b : Byte) : (s.setDt b).diag = s.diag := rfl
@[simp] theorem State.setDt_reg (s : State) (b : Byte) (q : Reg) :
    (s.setDt b).reg q = s.reg q := rfl
@[simp] theorem State.setDt_readByte (s : State) (b : Byte) (a' : Nat) :
    (s.setDt b).readByte a' = s.readByte a' := rfl
@[simp] theorem State.setDt_pixel (s : State) (b : Byte) (x y : Nat) :
    (s.setDt b).pixel x y = s.pixel x y := rfl
@[simp] theorem State.setDt_pressed (s : State) (b : Byte) (q : Key) :
    (s.setDt b).pressed q = s.pressed q := rfl
@[simp] theorem State.setDt_pcFetch (s : State) (b : Byte) :
    (s.setDt b).pcFetch = s.pcFetch := rfl
@[simp] theorem State.setDt_nextRand (s : State) (b : Byte) :
    (s.setDt b).nextRand = s.nextRand := rfl
@[simp] theorem State.setDt_indexAddr (s : State) (b : Byte) (n : Nat) :
    (s.setDt b).indexAddr n = s.indexAddr n := rfl

/-! ### setSt -/

@[simp] theorem State.setSt_v (s : State) (b : Byte) : (s.setSt b).v = s.v := rfl
@[simp] theorem State.setSt_i (s : State) (b : Byte) : (s.setSt b).i = s.i := rfl
@[simp] theorem State.setSt_pc (s : State) (b : Byte) : (s.setSt b).pc = s.pc := rfl
@[simp] theorem State.setSt_stack (s : State) (b : Byte) : (s.setSt b).stack = s.stack := rfl
@[simp] theorem State.setSt_sp (s : State) (b : Byte) : (s.setSt b).sp = s.sp := rfl
@[simp] theorem State.setSt_dt (s : State) (b : Byte) : (s.setSt b).dt = s.dt := rfl
@[simp] theorem State.setSt_st (s : State) (b : Byte) : (s.setSt b).st = b := rfl
@[simp] theorem State.setSt_key (s : State) (b : Byte) : (s.setSt b).key = s.key := rfl
@[simp] theorem State.setSt_fb (s : State) (b : Byte) : (s.setSt b).fb = s.fb := rfl
@[simp] theorem State.setSt_mem (s : State) (b : Byte) : (s.setSt b).mem = s.mem := rfl
@[simp] theorem State.setSt_ctrl (s : State) (b : Byte) : (s.setSt b).ctrl = s.ctrl := rfl
@[simp] theorem State.setSt_halt (s : State) (b : Byte) : (s.setSt b).halt = s.halt := rfl
@[simp] theorem State.setSt_phase (s : State) (b : Byte) : (s.setSt b).phase = s.phase := rfl
@[simp] theorem State.setSt_inputs (s : State) (b : Byte) : (s.setSt b).inputs = s.inputs := rfl
@[simp] theorem State.setSt_randIn (s : State) (b : Byte) : (s.setSt b).randIn = s.randIn := rfl
@[simp] theorem State.setSt_draws (s : State) (b : Byte) : (s.setSt b).draws = s.draws := rfl
@[simp] theorem State.setSt_diag (s : State) (b : Byte) : (s.setSt b).diag = s.diag := rfl
@[simp] theorem State.setSt_reg (s : State) (b : Byte) (q : Reg) :
    (s.setSt b).reg q = s.reg q := rfl
@[simp] theorem State.setSt_readByte (s : State) (b : Byte) (a' : Nat) :
    (s.setSt b).readByte a' = s.readByte a' := rfl
@[simp] theorem State.setSt_pixel (s : State) (b : Byte) (x y : Nat) :
    (s.setSt b).pixel x y = s.pixel x y := rfl
@[simp] theorem State.setSt_pressed (s : State) (b : Byte) (q : Key) :
    (s.setSt b).pressed q = s.pressed q := rfl
@[simp] theorem State.setSt_pcFetch (s : State) (b : Byte) :
    (s.setSt b).pcFetch = s.pcFetch := rfl
@[simp] theorem State.setSt_nextRand (s : State) (b : Byte) :
    (s.setSt b).nextRand = s.nextRand := rfl
@[simp] theorem State.setSt_indexAddr (s : State) (b : Byte) (n : Nat) :
    (s.setSt b).indexAddr n = s.indexAddr n := rfl

/-! ### setKey -/

@[simp] theorem State.setKey_v (s : State) (k : Key) (b : Bool) : (s.setKey k b).v = s.v := rfl
@[simp] theorem State.setKey_i (s : State) (k : Key) (b : Bool) : (s.setKey k b).i = s.i := rfl
@[simp] theorem State.setKey_pc (s : State) (k : Key) (b : Bool) : (s.setKey k b).pc = s.pc := rfl
@[simp] theorem State.setKey_stack (s : State) (k : Key) (b : Bool) : (s.setKey k b).stack = s.stack := rfl
@[simp] theorem State.setKey_sp (s : State) (k : Key) (b : Bool) : (s.setKey k b).sp = s.sp := rfl
@[simp] theorem State.setKey_dt (s : State) (k : Key) (b : Bool) : (s.setKey k b).dt = s.dt := rfl
@[simp] theorem State.setKey_st (s : State) (k : Key) (b : Bool) : (s.setKey k b).st = s.st := rfl
@[simp] theorem State.setKey_key (s : State) (k : Key) (b : Bool) : (s.setKey k b).key = s.key.set k b := rfl
@[simp] theorem State.setKey_fb (s : State) (k : Key) (b : Bool) : (s.setKey k b).fb = s.fb := rfl
@[simp] theorem State.setKey_mem (s : State) (k : Key) (b : Bool) : (s.setKey k b).mem = s.mem := rfl
@[simp] theorem State.setKey_ctrl (s : State) (k : Key) (b : Bool) : (s.setKey k b).ctrl = s.ctrl := rfl
@[simp] theorem State.setKey_halt (s : State) (k : Key) (b : Bool) : (s.setKey k b).halt = s.halt := rfl
@[simp] theorem State.setKey_phase (s : State) (k : Key) (b : Bool) : (s.setKey k b).phase = s.phase := rfl
@[simp] theorem State.setKey_inputs (s : State) (k : Key) (b : Bool) : (s.setKey k b).inputs = s.inputs := rfl
@[simp] theorem State.setKey_randIn (s : State) (k : Key) (b : Bool) : (s.setKey k b).randIn = s.randIn := rfl
@[simp] theorem State.setKey_draws (s : State) (k : Key) (b : Bool) : (s.setKey k b).draws = s.draws := rfl
@[simp] theorem State.setKey_diag (s : State) (k : Key) (b : Bool) : (s.setKey k b).diag = s.diag := rfl
@[simp] theorem State.setKey_reg (s : State) (k : Key) (b : Bool) (q : Reg) :
    (s.setKey k b).reg q = s.reg q := rfl
@[simp] theorem State.setKey_readByte (s : State) (k : Key) (b : Bool) (a' : Nat) :
    (s.setKey k b).readByte a' = s.readByte a' := rfl
@[simp] theorem State.setKey_pixel (s : State) (k : Key) (b : Bool) (x y : Nat) :
    (s.setKey k b).pixel x y = s.pixel x y := rfl
@[simp] theorem State.setKey_pcFetch (s : State) (k : Key) (b : Bool) :
    (s.setKey k b).pcFetch = s.pcFetch := rfl
@[simp] theorem State.setKey_nextRand (s : State) (k : Key) (b : Bool) :
    (s.setKey k b).nextRand = s.nextRand := rfl
@[simp] theorem State.setKey_indexAddr (s : State) (k : Key) (b : Bool) (n : Nat) :
    (s.setKey k b).indexAddr n = s.indexAddr n := rfl

/-! ### setFb -/

@[simp] theorem State.setFb_v (s : State) (fb : Framebuffer) : (s.setFb fb).v = s.v := rfl
@[simp] theorem State.setFb_i (s : State) (fb : Framebuffer) : (s.setFb fb).i = s.i := rfl
@[simp] theorem State.setFb_pc (s : State) (fb : Framebuffer) : (s.setFb fb).pc = s.pc := rfl
@[simp] theorem State.setFb_stack (s : State) (fb : Framebuffer) : (s.setFb fb).stack = s.stack := rfl
@[simp] theorem State.setFb_sp (s : State) (fb : Framebuffer) : (s.setFb fb).sp = s.sp := rfl
@[simp] theorem State.setFb_dt (s : State) (fb : Framebuffer) : (s.setFb fb).dt = s.dt := rfl
@[simp] theorem State.setFb_st (s : State) (fb : Framebuffer) : (s.setFb fb).st = s.st := rfl
@[simp] theorem State.setFb_key (s : State) (fb : Framebuffer) : (s.setFb fb).key = s.key := rfl
@[simp] theorem State.setFb_fb (s : State) (fb : Framebuffer) : (s.setFb fb).fb = fb := rfl
@[simp] theorem State.setFb_mem (s : State) (fb : Framebuffer) : (s.setFb fb).mem = s.mem := rfl
@[simp] theorem State.setFb_ctrl (s : State) (fb : Framebuffer) : (s.setFb fb).ctrl = s.ctrl := rfl
@[simp] theorem State.setFb_halt (s : State) (fb : Framebuffer) : (s.setFb fb).halt = s.halt := rfl
@[simp] theorem State.setFb_phase (s : State) (fb : Framebuffer) : (s.setFb fb).phase = s.phase := rfl
@[simp] theorem State.setFb_inputs (s : State) (fb : Framebuffer) : (s.setFb fb).inputs = s.inputs := rfl
@[simp] theorem State.setFb_randIn (s : State) (fb : Framebuffer) : (s.setFb fb).randIn = s.randIn := rfl
@[simp] theorem State.setFb_draws (s : State) (fb : Framebuffer) : (s.setFb fb).draws = s.draws := rfl
@[simp] theorem State.setFb_diag (s : State) (fb : Framebuffer) : (s.setFb fb).diag = s.diag := rfl
@[simp] theorem State.setFb_reg (s : State) (fb : Framebuffer) (q : Reg) :
    (s.setFb fb).reg q = s.reg q := rfl
@[simp] theorem State.setFb_readByte (s : State) (fb : Framebuffer) (a' : Nat) :
    (s.setFb fb).readByte a' = s.readByte a' := rfl
@[simp] theorem State.setFb_pressed (s : State) (fb : Framebuffer) (q : Key) :
    (s.setFb fb).pressed q = s.pressed q := rfl
@[simp] theorem State.setFb_pcFetch (s : State) (fb : Framebuffer) :
    (s.setFb fb).pcFetch = s.pcFetch := rfl
@[simp] theorem State.setFb_nextRand (s : State) (fb : Framebuffer) :
    (s.setFb fb).nextRand = s.nextRand := rfl
@[simp] theorem State.setFb_indexAddr (s : State) (fb : Framebuffer) (n : Nat) :
    (s.setFb fb).indexAddr n = s.indexAddr n := rfl

/-! ### setMem -/

@[simp] theorem State.setMem_v (s : State) (m : Memory) : (s.setMem m).v = s.v := rfl
@[simp] theorem State.setMem_i (s : State) (m : Memory) : (s.setMem m).i = s.i := rfl
@[simp] theorem State.setMem_pc (s : State) (m : Memory) : (s.setMem m).pc = s.pc := rfl
@[simp] theorem State.setMem_stack (s : State) (m : Memory) : (s.setMem m).stack = s.stack := rfl
@[simp] theorem State.setMem_sp (s : State) (m : Memory) : (s.setMem m).sp = s.sp := rfl
@[simp] theorem State.setMem_dt (s : State) (m : Memory) : (s.setMem m).dt = s.dt := rfl
@[simp] theorem State.setMem_st (s : State) (m : Memory) : (s.setMem m).st = s.st := rfl
@[simp] theorem State.setMem_key (s : State) (m : Memory) : (s.setMem m).key = s.key := rfl
@[simp] theorem State.setMem_fb (s : State) (m : Memory) : (s.setMem m).fb = s.fb := rfl
@[simp] theorem State.setMem_mem (s : State) (m : Memory) : (s.setMem m).mem = m := rfl
@[simp] theorem State.setMem_ctrl (s : State) (m : Memory) : (s.setMem m).ctrl = s.ctrl := rfl
@[simp] theorem State.setMem_halt (s : State) (m : Memory) : (s.setMem m).halt = s.halt := rfl
@[simp] theorem State.setMem_phase (s : State) (m : Memory) : (s.setMem m).phase = s.phase := rfl
@[simp] theorem State.setMem_inputs (s : State) (m : Memory) : (s.setMem m).inputs = s.inputs := rfl
@[simp] theorem State.setMem_randIn (s : State) (m : Memory) : (s.setMem m).randIn = s.randIn := rfl
@[simp] theorem State.setMem_draws (s : State) (m : Memory) : (s.setMem m).draws = s.draws := rfl
@[simp] theorem State.setMem_diag (s : State) (m : Memory) : (s.setMem m).diag = s.diag := rfl
@[simp] theorem State.setMem_reg (s : State) (m : Memory) (q : Reg) :
    (s.setMem m).reg q = s.reg q := rfl
@[simp] theorem State.setMem_pixel (s : State) (m : Memory) (x y : Nat) :
    (s.setMem m).pixel x y = s.pixel x y := rfl
@[simp] theorem State.setMem_pressed (s : State) (m : Memory) (q : Key) :
    (s.setMem m).pressed q = s.pressed q := rfl
@[simp] theorem State.setMem_pcFetch (s : State) (m : Memory) :
    (s.setMem m).pcFetch = s.pcFetch := rfl
@[simp] theorem State.setMem_nextRand (s : State) (m : Memory) :
    (s.setMem m).nextRand = s.nextRand := rfl
@[simp] theorem State.setMem_indexAddr (s : State) (m : Memory) (n : Nat) :
    (s.setMem m).indexAddr n = s.indexAddr n := rfl

/-! ### setCtrl -/

@[simp] theorem State.setCtrl_v (s : State) (c : Ctrl) : (s.setCtrl c).v = s.v := rfl
@[simp] theorem State.setCtrl_i (s : State) (c : Ctrl) : (s.setCtrl c).i = s.i := rfl
@[simp] theorem State.setCtrl_pc (s : State) (c : Ctrl) : (s.setCtrl c).pc = s.pc := rfl
@[simp] theorem State.setCtrl_stack (s : State) (c : Ctrl) : (s.setCtrl c).stack = s.stack := rfl
@[simp] theorem State.setCtrl_sp (s : State) (c : Ctrl) : (s.setCtrl c).sp = s.sp := rfl
@[simp] theorem State.setCtrl_dt (s : State) (c : Ctrl) : (s.setCtrl c).dt = s.dt := rfl
@[simp] theorem State.setCtrl_st (s : State) (c : Ctrl) : (s.setCtrl c).st = s.st := rfl
@[simp] theorem State.setCtrl_key (s : State) (c : Ctrl) : (s.setCtrl c).key = s.key := rfl
@[simp] theorem State.setCtrl_fb (s : State) (c : Ctrl) : (s.setCtrl c).fb = s.fb := rfl
@[simp] theorem State.setCtrl_mem (s : State) (c : Ctrl) : (s.setCtrl c).mem = s.mem := rfl
@[simp] theorem State.setCtrl_ctrl (s : State) (c : Ctrl) : (s.setCtrl c).ctrl = c := rfl
@[simp] theorem State.setCtrl_halt (s : State) (c : Ctrl) : (s.setCtrl c).halt = s.halt := rfl
@[simp] theorem State.setCtrl_phase (s : State) (c : Ctrl) : (s.setCtrl c).phase = s.phase := rfl
@[simp] theorem State.setCtrl_inputs (s : State) (c : Ctrl) : (s.setCtrl c).inputs = s.inputs := rfl
@[simp] theorem State.setCtrl_randIn (s : State) (c : Ctrl) : (s.setCtrl c).randIn = s.randIn := rfl
@[simp] theorem State.setCtrl_draws (s : State) (c : Ctrl) : (s.setCtrl c).draws = s.draws := rfl
@[simp] theorem State.setCtrl_diag (s : State) (c : Ctrl) : (s.setCtrl c).diag = s.diag := rfl
@[simp] theorem State.setCtrl_reg (s : State) (c : Ctrl) (q : Reg) :
    (s.setCtrl c).reg q = s.reg q := rfl
@[simp] theorem State.setCtrl_readByte (s : State) (c : Ctrl) (a' : Nat) :
    (s.setCtrl c).readByte a' = s.readByte a' := rfl
@[simp] theorem State.setCtrl_pixel (s : State) (c : Ctrl) (x y : Nat) :
    (s.setCtrl c).pixel x y = s.pixel x y := rfl
@[simp] theorem State.setCtrl_pressed (s : State) (c : Ctrl) (q : Key) :
    (s.setCtrl c).pressed q = s.pressed q := rfl
@[simp] theorem State.setCtrl_pcFetch (s : State) (c : Ctrl) :
    (s.setCtrl c).pcFetch = s.pcFetch := rfl
@[simp] theorem State.setCtrl_nextRand (s : State) (c : Ctrl) :
    (s.setCtrl c).nextRand = s.nextRand := rfl
@[simp] theorem State.setCtrl_indexAddr (s : State) (c : Ctrl) (n : Nat) :
    (s.setCtrl c).indexAddr n = s.indexAddr n := rfl

/-! ### setPhase -/

@[simp] theorem State.setPhase_v (s : State) (p : Phase) : (s.setPhase p).v = s.v := rfl
@[simp] theorem State.setPhase_i (s : State) (p : Phase) : (s.setPhase p).i = s.i := rfl
@[simp] theorem State.setPhase_pc (s : State) (p : Phase) : (s.setPhase p).pc = s.pc := rfl
@[simp] theorem State.setPhase_stack (s : State) (p : Phase) : (s.setPhase p).stack = s.stack := rfl
@[simp] theorem State.setPhase_sp (s : State) (p : Phase) : (s.setPhase p).sp = s.sp := rfl
@[simp] theorem State.setPhase_dt (s : State) (p : Phase) : (s.setPhase p).dt = s.dt := rfl
@[simp] theorem State.setPhase_st (s : State) (p : Phase) : (s.setPhase p).st = s.st := rfl
@[simp] theorem State.setPhase_key (s : State) (p : Phase) : (s.setPhase p).key = s.key := rfl
@[simp] theorem State.setPhase_fb (s : State) (p : Phase) : (s.setPhase p).fb = s.fb := rfl
@[simp] theorem State.setPhase_mem (s : State) (p : Phase) : (s.setPhase p).mem = s.mem := rfl
@[simp] theorem State.setPhase_ctrl (s : State) (p : Phase) : (s.setPhase p).ctrl = s.ctrl := rfl
@[simp] theorem State.setPhase_halt (s : State) (p : Phase) : (s.setPhase p).halt = s.halt := rfl
@[simp] theorem State.setPhase_phase (s : State) (p : Phase) : (s.setPhase p).phase = p := rfl
@[simp] theorem State.setPhase_inputs (s : State) (p : Phase) : (s.setPhase p).inputs = s.inputs := rfl
@[simp] theorem State.setPhase_randIn (s : State) (p : Phase) : (s.setPhase p).randIn = s.randIn := rfl
@[simp] theorem State.setPhase_draws (s : State) (p : Phase) : (s.setPhase p).draws = s.draws := rfl
@[simp] theorem State.setPhase_diag (s : State) (p : Phase) : (s.setPhase p).diag = s.diag := rfl
@[simp] theorem State.setPhase_reg (s : State) (p : Phase) (q : Reg) :
    (s.setPhase p).reg q = s.reg q := rfl
@[simp] theorem State.setPhase_readByte (s : State) (p : Phase) (a' : Nat) :
    (s.setPhase p).readByte a' = s.readByte a' := rfl
@[simp] theorem State.setPhase_pixel (s : State) (p : Phase) (x y : Nat) :
    (s.setPhase p).pixel x y = s.pixel x y := rfl
@[simp] theorem State.setPhase_pressed (s : State) (p : Phase) (q : Key) :
    (s.setPhase p).pressed q = s.pressed q := rfl
@[simp] theorem State.setPhase_pcFetch (s : State) (p : Phase) :
    (s.setPhase p).pcFetch = s.pcFetch := rfl
@[simp] theorem State.setPhase_nextRand (s : State) (p : Phase) :
    (s.setPhase p).nextRand = s.nextRand := rfl
@[simp] theorem State.setPhase_indexAddr (s : State) (p : Phase) (n : Nat) :
    (s.setPhase p).indexAddr n = s.indexAddr n := rfl

/-! ### setInputs -/

@[simp] theorem State.setInputs_v (s : State) (qs : List (List Request)) : (s.setInputs qs).v = s.v := rfl
@[simp] theorem State.setInputs_i (s : State) (qs : List (List Request)) : (s.setInputs qs).i = s.i := rfl
@[simp] theorem State.setInputs_pc (s : State) (qs : List (List Request)) : (s.setInputs qs).pc = s.pc := rfl
@[simp] theorem State.setInputs_stack (s : State) (qs : List (List Request)) : (s.setInputs qs).stack = s.stack := rfl
@[simp] theorem State.setInputs_sp (s : State) (qs : List (List Request)) : (s.setInputs qs).sp = s.sp := rfl
@[simp] theorem State.setInputs_dt (s : State) (qs : List (List Request)) : (s.setInputs qs).dt = s.dt := rfl
@[simp] theorem State.setInputs_st (s : State) (qs : List (List Request)) : (s.setInputs qs).st = s.st := rfl
@[simp] theorem State.setInputs_key (s : State) (qs : List (List Request)) : (s.setInputs qs).key = s.key := rfl
@[simp] theorem State.setInputs_fb (s : State) (qs : List (List Request)) : (s.setInputs qs).fb = s.fb := rfl
@[simp] theorem State.setInputs_mem (s : State) (qs : List (List Request)) : (s.setInputs qs).mem = s.mem := rfl
@[simp] theorem State.setInputs_ctrl (s : State) (qs : List (List Request)) : (s.setInputs qs).ctrl = s.ctrl := rfl
@[simp] theorem State.setInputs_halt (s : State) (qs : List (List Request)) : (s.setInputs qs).halt = s.halt := rfl
@[simp] theorem State.setInputs_phase (s : State) (qs : List (List Request)) : (s.setInputs qs).phase = s.phase := rfl
@[simp] theorem State.setInputs_inputs (s : State) (qs : List (List Request)) : (s.setInputs qs).inputs = qs := rfl
@[simp] theorem State.setInputs_randIn (s : State) (qs : List (List Request)) : (s.setInputs qs).randIn = s.randIn := rfl
@[simp] theorem State.setInputs_draws (s : State) (qs : List (List Request)) : (s.setInputs qs).draws = s.draws := rfl
@[simp] theorem State.setInputs_diag (s : State) (qs : List (List Request)) : (s.setInputs qs).diag = s.diag := rfl
@[simp] theorem State.setInputs_reg (s : State) (qs : List (List Request)) (q : Reg) :
    (s.setInputs qs).reg q = s.reg q := rfl
@[simp] theorem State.setInputs_readByte (s : State) (qs : List (List Request)) (a' : Nat) :
    (s.setInputs qs).readByte a' = s.readByte a' := rfl
@[simp] theorem State.setInputs_pixel (s : State) (qs : List (List Request)) (x y : Nat) :
    (s.setInputs qs).pixel x y = s.pixel x y := rfl
@[simp] theorem State.setInputs_pressed (s : State) (qs : List (List Request)) (q : Key) :
    (s.setInputs qs).pressed q = s.pressed q := rfl
@[simp] theorem State.setInputs_pcFetch (s : State) (qs : List (List Request)) :
    (s.setInputs qs).pcFetch = s.pcFetch := rfl
@[simp] theorem State.setInputs_nextRand (s : State) (qs : List (List Request)) :
    (s.setInputs qs).nextRand = s.nextRand := rfl
@[simp] theorem State.setInputs_indexAddr (s : State) (qs : List (List Request)) (n : Nat) :
    (s.setInputs qs).indexAddr n = s.indexAddr n := rfl

/-! ### emitDiag -/

@[simp] theorem State.emitDiag_v (s : State) (c : DiagCode) (op : Word) : (s.emitDiag c op).v = s.v := rfl
@[simp] theorem State.emitDiag_i (s : State) (c : DiagCode) (op : Word) : (s.emitDiag c op).i = s.i := rfl
@[simp] theorem State.emitDiag_pc (s : State) (c : DiagCode) (op : Word) : (s.emitDiag c op).pc = s.pc := rfl
@[simp] theorem State.emitDiag_stack (s : State) (c : DiagCode) (op : Word) : (s.emitDiag c op).stack = s.stack := rfl
@[simp] theorem State.emitDiag_sp (s : State) (c : DiagCode) (op : Word) : (s.emitDiag c op).sp = s.sp := rfl
@[simp] theorem State.emitDiag_dt (s : State) (c : DiagCode) (op : Word) : (s.emitDiag c op).dt = s.dt := rfl
@[simp] theorem State.emitDiag_st (s : State) (c : DiagCode) (op : Word) : (s.emitDiag c op).st = s.st := rfl
@[simp] theorem State.emitDiag_key (s : State) (c : DiagCode) (op : Word) : (s.emitDiag c op).key = s.key := rfl
@[simp] theorem State.emitDiag_fb (s : State) (c : DiagCode) (op : Word) : (s.emitDiag c op).fb = s.fb := rfl
@[simp] theorem State.emitDiag_mem (s : State) (c : DiagCode) (op : Word) : (s.emitDiag c op).mem = s.mem := rfl
@[simp] theorem State.emitDiag_ctrl (s : State) (c : DiagCode) (op : Word) : (s.emitDiag c op).ctrl = s.ctrl := rfl
@[simp] theorem State.emitDiag_halt (s : State) (c : DiagCode) (op : Word) : (s.emitDiag c op).halt = s.halt := rfl
@[simp] theorem State.emitDiag_phase (s : State) (c : DiagCode) (op : Word) : (s.emitDiag c op).phase = s.phase := rfl
@[simp] theorem State.emitDiag_inputs (s : State) (c : DiagCode) (op : Word) : (s.emitDiag c op).inputs = s.inputs := rfl
@[simp] theorem State.emitDiag_randIn (s : State) (c : DiagCode) (op : Word) : (s.emitDiag c op).randIn = s.randIn := rfl
@[simp] theorem State.emitDiag_draws (s : State) (c : DiagCode) (op : Word) : (s.emitDiag c op).draws = s.draws := rfl
@[simp] theorem State.emitDiag_diag (s : State) (c : DiagCode) (op : Word) : (s.emitDiag c op).diag = ⟨c, s.pcFetch, op⟩ :: s.diag := rfl
@[simp] theorem State.emitDiag_reg (s : State) (c : DiagCode) (op : Word) (q : Reg) :
    (s.emitDiag c op).reg q = s.reg q := rfl
@[simp] theorem State.emitDiag_readByte (s : State) (c : DiagCode) (op : Word) (a' : Nat) :
    (s.emitDiag c op).readByte a' = s.readByte a' := rfl
@[simp] theorem State.emitDiag_pixel (s : State) (c : DiagCode) (op : Word) (x y : Nat) :
    (s.emitDiag c op).pixel x y = s.pixel x y := rfl
@[simp] theorem State.emitDiag_pressed (s : State) (c : DiagCode) (op : Word) (q : Key) :
    (s.emitDiag c op).pressed q = s.pressed q := rfl
@[simp] theorem State.emitDiag_pcFetch (s : State) (c : DiagCode) (op : Word) :
    (s.emitDiag c op).pcFetch = s.pcFetch := rfl
@[simp] theorem State.emitDiag_nextRand (s : State) (c : DiagCode) (op : Word) :
    (s.emitDiag c op).nextRand = s.nextRand := rfl
@[simp] theorem State.emitDiag_indexAddr (s : State) (c : DiagCode) (op : Word) (n : Nat) :
    (s.emitDiag c op).indexAddr n = s.indexAddr n := rfl

/-! ### enterHalted -/

@[simp] theorem State.enterHalted_v (s : State) (r : HaltRecord) : (s.enterHalted r).v = s.v := rfl
@[simp] theorem State.enterHalted_i (s : State) (r : HaltRecord) : (s.enterHalted r).i = s.i := rfl
@[simp] theorem State.enterHalted_pc (s : State) (r : HaltRecord) : (s.enterHalted r).pc = s.pc := rfl
@[simp] theorem State.enterHalted_stack (s : State) (r : HaltRecord) : (s.enterHalted r).stack = s.stack := rfl
@[simp] theorem State.enterHalted_sp (s : State) (r : HaltRecord) : (s.enterHalted r).sp = s.sp := rfl
@[simp] theorem State.enterHalted_dt (s : State) (r : HaltRecord) : (s.enterHalted r).dt = s.dt := rfl
@[simp] theorem State.enterHalted_st (s : State) (r : HaltRecord) : (s.enterHalted r).st = s.st := rfl
@[simp] theorem State.enterHalted_key (s : State) (r : HaltRecord) : (s.enterHalted r).key = s.key := rfl
@[simp] theorem State.enterHalted_fb (s : State) (r : HaltRecord) : (s.enterHalted r).fb = s.fb := rfl
@[simp] theorem State.enterHalted_mem (s : State) (r : HaltRecord) : (s.enterHalted r).mem = s.mem := rfl
@[simp] theorem State.enterHalted_ctrl (s : State) (r : HaltRecord) : (s.enterHalted r).ctrl = .halted := rfl
@[simp] theorem State.enterHalted_halt (s : State) (r : HaltRecord) : (s.enterHalted r).halt = r := rfl
@[simp] theorem State.enterHalted_phase (s : State) (r : HaltRecord) : (s.enterHalted r).phase = s.phase := rfl
@[simp] theorem State.enterHalted_inputs (s : State) (r : HaltRecord) : (s.enterHalted r).inputs = s.inputs := rfl
@[simp] theorem State.enterHalted_randIn (s : State) (r : HaltRecord) : (s.enterHalted r).randIn = s.randIn := rfl
@[simp] theorem State.enterHalted_draws (s : State) (r : HaltRecord) : (s.enterHalted r).draws = s.draws := rfl
@[simp] theorem State.enterHalted_diag (s : State) (r : HaltRecord) : (s.enterHalted r).diag = s.diag := rfl
@[simp] theorem State.enterHalted_reg (s : State) (r : HaltRecord) (q : Reg) :
    (s.enterHalted r).reg q = s.reg q := rfl
@[simp] theorem State.enterHalted_readByte (s : State) (r : HaltRecord) (a' : Nat) :
    (s.enterHalted r).readByte a' = s.readByte a' := rfl
@[simp] theorem State.enterHalted_pixel (s : State) (r : HaltRecord) (x y : Nat) :
    (s.enterHalted r).pixel x y = s.pixel x y := rfl
@[simp] theorem State.enterHalted_pressed (s : State) (r : HaltRecord) (q : Key) :
    (s.enterHalted r).pressed q = s.pressed q := rfl
@[simp] theorem State.enterHalted_pcFetch (s : State) (r : HaltRecord) :
    (s.enterHalted r).pcFetch = s.pcFetch := rfl
@[simp] theorem State.enterHalted_nextRand (s : State) (r : HaltRecord) :
    (s.enterHalted r).nextRand = s.nextRand := rfl
@[simp] theorem State.enterHalted_indexAddr (s : State) (r : HaltRecord) (n : Nat) :
    (s.enterHalted r).indexAddr n = s.indexAddr n := rfl

/-! ### drawn -/

@[simp] theorem State.drawn_v (s : State) : (s.drawn).v = s.v := rfl
@[simp] theorem State.drawn_i (s : State) : (s.drawn).i = s.i := rfl
@[simp] theorem State.drawn_pc (s : State) : (s.drawn).pc = s.pc := rfl
@[simp] theorem State.drawn_stack (s : State) : (s.drawn).stack = s.stack := rfl
@[simp] theorem State.drawn_sp (s : State) : (s.drawn).sp = s.sp := rfl
@[simp] theorem State.drawn_dt (s : State) : (s.drawn).dt = s.dt := rfl
@[simp] theorem State.drawn_st (s : State) : (s.drawn).st = s.st := rfl
@[simp] theorem State.drawn_key (s : State) : (s.drawn).key = s.key := rfl
@[simp] theorem State.drawn_fb (s : State) : (s.drawn).fb = s.fb := rfl
@[simp] theorem State.drawn_mem (s : State) : (s.drawn).mem = s.mem := rfl
@[simp] theorem State.drawn_ctrl (s : State) : (s.drawn).ctrl = s.ctrl := rfl
@[simp] theorem State.drawn_halt (s : State) : (s.drawn).halt = s.halt := rfl
@[simp] theorem State.drawn_phase (s : State) : (s.drawn).phase = s.phase := rfl
@[simp] theorem State.drawn_inputs (s : State) : (s.drawn).inputs = s.inputs := rfl
@[simp] theorem State.drawn_randIn (s : State) : (s.drawn).randIn = s.randIn.tail := rfl
@[simp] theorem State.drawn_draws (s : State) : (s.drawn).draws = s.draws + 1 := rfl
@[simp] theorem State.drawn_diag (s : State) : (s.drawn).diag = s.diag := rfl
@[simp] theorem State.drawn_reg (s : State) (q : Reg) :
    (s.drawn).reg q = s.reg q := rfl
@[simp] theorem State.drawn_readByte (s : State) (a' : Nat) :
    (s.drawn).readByte a' = s.readByte a' := rfl
@[simp] theorem State.drawn_pixel (s : State) (x y : Nat) :
    (s.drawn).pixel x y = s.pixel x y := rfl
@[simp] theorem State.drawn_pressed (s : State) (q : Key) :
    (s.drawn).pressed q = s.pressed q := rfl
@[simp] theorem State.drawn_pcFetch (s : State) :
    (s.drawn).pcFetch = s.pcFetch := rfl
@[simp] theorem State.drawn_indexAddr (s : State) (n : Nat) :
    (s.drawn).indexAddr n = s.indexAddr n := rfl

/-! ### Reads after writes -/

/-- A register read after a register write. -/
@[simp] theorem State.setReg_reg (s : State) (r : Reg) (b : Byte) (q : Reg) :
    (s.setReg r b).reg q = if q = r then b else s.reg q := by
  simp only [State.reg, State.setReg, Fin.getElem_fin, Vector.getElem_set, Fin.val_inj]
  exact if_congr eq_comm rfl rfl

/-- A register read after all registers are replaced. -/
@[simp] theorem State.setRegs_reg (s : State) (w : Vector Byte 16) (q : Reg) : (s.setRegs w).reg q = w[q] := rfl

/-- A key read after a latch write. -/
@[simp] theorem State.setKey_pressed (s : State) (k : Key) (b : Bool) (q : Key) :
    (s.setKey k b).pressed q = if q = k then b else s.pressed q := by
  simp only [State.pressed, State.setKey, Fin.getElem_fin, Vector.getElem_set, Fin.val_inj]
  exact if_congr eq_comm rfl rfl

/-- A byte read after memory is replaced. -/
@[simp] theorem State.setMem_readByte (s : State) (m : Memory) (a : Nat) : (s.setMem m).readByte a = m.read a := rfl

/-- A pixel read after the framebuffer is replaced. -/
@[simp] theorem State.setFb_pixel (s : State) (fb : Framebuffer) (x y : Nat) :
    (s.setFb fb).pixel x y = fbPixel fb x y := rfl

/-- PC_fetch is where the instruction was fetched: ADVANCE and going back 2 cancel (R92). -/
@[simp] theorem State.advance_pcFetch (s : State) : s.advance.pcFetch = s.pc := by
  simp [State.pcFetch]

/-- Register files agree when all sixteen reads do. -/
theorem State.v_ext {v w : Vector Byte 16} (h : ∀ r : Reg, v[r] = w[r]) : v = w := by
  apply Vector.ext
  intro k hk
  exact h ⟨k, hk⟩

/-- The last of two writes of one register stays. -/
@[simp] theorem State.setReg_setReg (s : State) (r : Reg) (b c : Byte) : (s.setReg r b).setReg r c = s.setReg r c := by
  simp only [State.setReg, Vector.set_set]

end Sys2Proof.Machine
end

