-- ==== Sys2Proof/Laws/Ops.lean ====
section
/-!
SUPPORT. The shared operations: what each check, stack operation, flag operation and controller operation can do,
said once.
-/

namespace Sys2Proof.Machine

/-! ### Checks -/

/-- Under HALT, `CheckAddr` reports exactly the addresses of 4096 or more (R56). -/
theorem checkAddr_halt (a : Nat) : checkAddr .halt a = if 4096 ≤ a then some a else none := rfl

/-- Under WRAP, `CheckAddr` reports nothing (R56). -/
@[simp] theorem checkAddr_wrap (a : Nat) : checkAddr .wrap a = none := rfl

/-- Under HALT, a range check reports the first address of the range that is 4096 or more (R205). -/
theorem checkRange_halt (a n : Nat) :
    checkRange .halt a n = if n = 0 ∨ a + n ≤ 4096 then none else some (max a 4096) := by
  induction n generalizing a with
  | zero => simp [checkRange]
  | succ n ih =>
    simp only [checkRange, checkAddr_halt, ih]
    by_cases ha : 4096 ≤ a
    · rw [if_pos ha]
      have : ¬ (n + 1 = 0 ∨ a + (n + 1) ≤ 4096) := by omega
      simp only [this, if_false]
      congr 1; omega
    · rw [if_neg ha]
      by_cases hn : n = 0 ∨ a + 1 + n ≤ 4096
      · have : n + 1 = 0 ∨ a + (n + 1) ≤ 4096 := by omega
        simp only [hn, this, if_true]
      · have : ¬ (n + 1 = 0 ∨ a + (n + 1) ≤ 4096) := by omega
        simp only [hn, this, if_false]
        congr 1; omega

/-- Under WRAP, a range check reports nothing (R56). -/
@[simp] theorem checkRange_wrap (a n : Nat) : checkRange .wrap a n = none := by
  induction n generalizing a with
  | zero => rfl
  | succ n ih => simp [checkRange, ih]

/-- An access whose bytes all exist has its effect (R56). -/
theorem afterRange_ok (a n : Nat) (i : Instr) (s e : State) (h : n = 0 ∨ a + n ≤ 4096) :
    afterRange a n i s e = .next e := by
  simp [afterRange, checkRange_halt, h]

/-- An access that leaves memory raises MEM_OUT_OF_RANGE with the first bad address (R205). -/
theorem afterRange_bad (a n : Nat) (i : Instr) (s e : State) (h : ¬ (n = 0 ∨ a + n ≤ 4096)) :
    afterRange a n i s e = raise .memOutOfRange (max a 4096) i s := by
  simp [afterRange, checkRange_halt, h]

/-- A ranged access either has its effect or raises MEM_OUT_OF_RANGE. -/
theorem afterRange_cases (a n : Nat) (i : Instr) (s e : State) :
    afterRange a n i s e = .next e ∨ ∃ bad, afterRange a n i s e = raise .memOutOfRange bad i s := by
  by_cases h : n = 0 ∨ a + n ≤ 4096
  · exact .inl (afterRange_ok a n i s e h)
  · exact .inr ⟨_, afterRange_bad a n i s e h⟩

/-- Under HALT, `CheckKey` reports exactly the indexes of 16 or more (R180). -/
theorem checkKey_halt (k : Nat) : checkKey .halt k = if 16 ≤ k then some k else none := rfl

/-- A fetch whose two bytes exist gives them, high byte first (R53). -/
theorem fetch16_ok (p : OobPolicy) (m : Memory) (pc : Word) (h : pc.toNat + 1 < 4096) :
    fetch16 p m pc = .ok (wordOfBytes (m.read pc.toNat) (m.read (pc.toNat + 1))) := by
  cases p with
  | halt =>
    have : pc.toNat ≤ 4094 := by omega
    simp [fetch16, checkRange_halt, this]
  | wrap => simp [fetch16]

/-- A fetch that leaves memory reports the first bad address (R91). -/
theorem fetch16_bad (m : Memory) (pc : Word) (h : ¬ pc.toNat + 1 < 4096) :
    fetch16 .halt m pc = .error (max pc.toNat 4096) := by
  have : ¬ pc.toNat ≤ 4094 := by omega
  simp [fetch16, checkRange_halt, this]

/-! ### Call stack -/

/-- A push below capacity (R112). -/
theorem State.push_ok (s : State) (a : Word) (h : s.sp.val < 12) :
    s.push a = some { s with stack := s.stack.set s.sp.val a h, sp := ⟨s.sp.val + 1, by omega⟩ } := by
  simp [State.push, h]

/-- A push at capacity gives nothing (R112). -/
theorem State.push_full (s : State) (a : Word) (h : ¬ s.sp.val < 12) : s.push a = none := by
  simp [State.push, h]

/-- A pop of a stack that holds an entry (R110). -/
theorem State.pop_ok (s : State) (h : 0 < s.sp.val) :
    s.pop = some (s.stack[s.sp.val - 1]'(by omega), { s with sp := ⟨s.sp.val - 1, by omega⟩ }) := by
  simp [State.pop, h]

/-- A pop of the empty stack gives nothing (R110). -/
theorem State.pop_empty (s : State) (h : s.sp.val = 0) : s.pop = none := by
  simp [State.pop, h]

/-! ### Input latch -/

/-- The key FX0A finds is pressed, and no lower one is (R186). -/
theorem lowestPressed_some (key : Vector Bool 16) (k : Key) (h : lowestPressed key = some k) :
    key[k] = true ∧ ∀ j : Key, j < k → key[j] = false := by
  rw [lowestPressed, List.find?_eq_some_iff_getElem] at h
  obtain ⟨hk, n, hn, hnk, hlow⟩ := h
  refine ⟨hk, fun j hj => ?_⟩
  have hkn : k.val = n := by rw [← hnk]; simp
  have hjn : j.val < n := by rw [← hkn]; exact hj
  have := hlow j.val hjn
  simpa using this

/-- FX0A finds no key exactly when none is pressed (R186). -/
theorem lowestPressed_none (key : Vector Bool 16) :
    lowestPressed key = none ↔ ∀ k : Key, key[k] = false := by
  simp [lowestPressed, List.find?_eq_none]

/-! ### Flag operations -/

/-- A flag-setting operation of this hardware (LATCHED): the result in VX, the flag in VF unless X = 0xF (R131). -/
theorem flagOp_latched_reg (flag : Byte → Byte → Bool) (result : Byte → Byte → Byte) (x y q : Reg) (s : State) :
    (flagOp .latched flag result x y s).reg q =
      if q = x then result (s.reg x) (s.reg y)
      else if q = regF then flagByte (flag (s.reg x) (s.reg y)) else s.reg q := by
  simp [flagOp]

/-- A flag-setting operation writes nothing but registers. -/
theorem flagOp_frame (mode : FlagOperandMode) (flag : Byte → Byte → Bool) (result : Byte → Byte → Byte) (x y : Reg)
    (s : State) : flagOp mode flag result x y s = { s with v := (flagOp mode flag result x y s).v } := by
  cases mode <;> rfl

/-! ### Controller -/

/-- A counter of the Timer Driver goes down by one and stays at 0 (R220). -/
theorem countDown_toNat (b : Byte) : (countDown b).toNat = b.toNat - 1 := by
  unfold countDown
  split <;> rename_i h
  · have := b.isLt
    have h1 : (1 : Byte).toNat = 1 := rfl
    rw [BitVec.toNat_sub, h1]
    omega
  · omega

/-- A drain changes only the latch, the controller state and the halt record (R226). -/
theorem drain_frame (reqs : List Request) (s : State) :
    drain reqs s = { s with key := (drain reqs s).key, ctrl := (drain reqs s).ctrl, halt := (drain reqs s).halt } := by
  induction reqs generalizing s with
  | nil => rfl
  | cons r rest ih =>
    cases r with
    | keySet k b =>
      show drain rest (s.setKey k b) = _
      rw [ih]; rfl
    | pauseToggle =>
      show drain rest (s.setCtrl s.ctrl.toggle) = _
      rw [ih]; rfl
    | quit => rfl

/-- A drain from a machine that has not halted ends RUNNING or PAUSED with the old halt record, or HALTED with the
cause QUIT alone (R225, R228). -/
theorem drain_ctrl (reqs : List Request) (s : State) (h : s.ctrl ≠ .halted) :
    ((drain reqs s).ctrl ≠ .halted ∧ (drain reqs s).halt = s.halt) ∨
    ((drain reqs s).ctrl = .halted ∧ (drain reqs s).halt = ⟨.quit, none, none, none⟩) := by
  induction reqs generalizing s with
  | nil => exact .inl ⟨h, rfl⟩
  | cons r rest ih =>
    cases r with
    | keySet k b => exact ih (s.setKey k b) h
    | pauseToggle =>
      refine ih (s.setCtrl s.ctrl.toggle) ?_
      cases hc : s.ctrl <;> simp_all [Ctrl.toggle]
    | quit => exact .inr ⟨rfl, rfl⟩

/-- Two toggles of a machine that has not halted cancel (R226). -/
theorem Ctrl.toggle_iterate (n : Nat) (c : Ctrl) (h : c ≠ .halted) :
    Ctrl.toggle^[n] c = if n % 2 = 0 then c else if c = .running then .paused else .running := by
  induction n generalizing c with
  | zero => rfl
  | succ n ih =>
    rw [Function.iterate_succ_apply, ih _ (by cases c <;> simp_all [Ctrl.toggle])]
    rcases Nat.mod_two_eq_zero_or_one n with hn | hn <;> cases c <;> simp_all [Ctrl.toggle, Nat.add_mod]

/-- A drain without a quit toggles CTRL once for each toggle and leaves the halt record (R226). -/
theorem drain_toggles (reqs : List Request) (s : State) (h : Request.quit ∉ reqs) :
    (drain reqs s).ctrl = Ctrl.toggle^[reqs.count .pauseToggle] s.ctrl ∧ (drain reqs s).halt = s.halt := by
  induction reqs generalizing s with
  | nil => exact ⟨rfl, rfl⟩
  | cons r rest ih =>
    have hrest : Request.quit ∉ rest := fun hq => h (List.mem_cons_of_mem _ hq)
    cases r with
    | keySet k b =>
      rw [List.count_cons_of_ne (by simp)]
      exact ih (s.setKey k b) hrest
    | pauseToggle =>
      rw [List.count_cons_self, Function.iterate_succ_apply]
      exact ih (s.setCtrl s.ctrl.toggle) hrest
    | quit => exact absurd List.mem_cons_self h

/-- A drain with a quit halts with the cause QUIT alone, whatever else it holds (R228). -/
theorem drain_quits (reqs : List Request) (s : State) (h : Request.quit ∈ reqs) :
    (drain reqs s).ctrl = .halted ∧ (drain reqs s).halt = ⟨.quit, none, none, none⟩ := by
  induction reqs generalizing s with
  | nil => simp at h
  | cons r rest ih =>
    cases r with
    | keySet k b => exact ih (s.setKey k b) (by simpa using h)
    | pauseToggle => exact ih (s.setCtrl s.ctrl.toggle) (by simpa using h)
    | quit => exact ⟨rfl, rfl⟩

end Sys2Proof.Machine
end

