-- ==== Sys2Proof/Laws/PerInstr.lean ====
section
/-!
SUPPORT. The family RoundTrip: the decoder gives back every well-formed instruction from its word, one lemma per
constructor.
-/

namespace Sys2Proof.Laws.RoundTrip

/-- Decoding the word of a well-formed instruction gives the instruction back (30_encoding.md R76, R81). -/
def Statement (i : Instr) : Prop := i.wellFormed = true → decode (encode i) = .ok i

theorem cls : Statement .cls := by intro _; decide

theorem ret : Statement .ret := by intro _; decide

theorem jp (nnn : BitVec 12) : Statement (.jp nnn) := by
  intro _
  simp [encode, decode, digitsNNN_fieldG, digitsNNN_fieldNNN]

theorem call (nnn : BitVec 12) : Statement (.call nnn) := by
  intro _
  simp [encode, decode, digitsNNN_fieldG, digitsNNN_fieldNNN]

theorem seImm (x : Reg) (nn : Byte) : Statement (.seImm x nn) := by
  intro _
  simp [encode, decode, digitsXNN_fieldG, digitsXNN_fieldX, digitsXNN_fieldNN]

theorem sneImm (x : Reg) (nn : Byte) : Statement (.sneImm x nn) := by
  intro _
  simp [encode, decode, digitsXNN_fieldG, digitsXNN_fieldX, digitsXNN_fieldNN]

theorem seReg (x y : Reg) : Statement (.seReg x y) := by
  intro _
  simp [encode, decode, decodeGroup5, digits_fieldG, digits_fieldX, digits_fieldY, digits_fieldN]

theorem ldImm (x : Reg) (nn : Byte) : Statement (.ldImm x nn) := by
  intro _
  simp [encode, decode, digitsXNN_fieldG, digitsXNN_fieldX, digitsXNN_fieldNN]

theorem addImm (x : Reg) (nn : Byte) : Statement (.addImm x nn) := by
  intro _
  simp [encode, decode, digitsXNN_fieldG, digitsXNN_fieldX, digitsXNN_fieldNN]

theorem ldReg (x y : Reg) : Statement (.ldReg x y) := by
  intro _
  simp [encode, decode, decodeGroup8, digits_fieldG, digits_fieldX, digits_fieldY, digits_fieldN]

theorem orReg (x y : Reg) : Statement (.orReg x y) := by
  intro _
  simp [encode, decode, decodeGroup8, digits_fieldG, digits_fieldX, digits_fieldY, digits_fieldN]

theorem andReg (x y : Reg) : Statement (.andReg x y) := by
  intro _
  simp [encode, decode, decodeGroup8, digits_fieldG, digits_fieldX, digits_fieldY, digits_fieldN]

theorem xorReg (x y : Reg) : Statement (.xorReg x y) := by
  intro _
  simp [encode, decode, decodeGroup8, digits_fieldG, digits_fieldX, digits_fieldY, digits_fieldN]

theorem addReg (x y : Reg) : Statement (.addReg x y) := by
  intro _
  simp [encode, decode, decodeGroup8, digits_fieldG, digits_fieldX, digits_fieldY, digits_fieldN]

theorem sub (x y : Reg) : Statement (.sub x y) := by
  intro _
  simp [encode, decode, decodeGroup8, digits_fieldG, digits_fieldX, digits_fieldY, digits_fieldN]

theorem shr (x y : Reg) : Statement (.shr x y) := by
  intro _
  simp [encode, decode, decodeGroup8, digits_fieldG, digits_fieldX, digits_fieldY, digits_fieldN]

theorem subn (x y : Reg) : Statement (.subn x y) := by
  intro _
  simp [encode, decode, decodeGroup8, digits_fieldG, digits_fieldX, digits_fieldY, digits_fieldN]

theorem shl (x y : Reg) : Statement (.shl x y) := by
  intro _
  simp [encode, decode, decodeGroup8, digits_fieldG, digits_fieldX, digits_fieldY, digits_fieldN]

theorem sneReg (x y : Reg) : Statement (.sneReg x y) := by
  intro _
  simp [encode, decode, decodeGroup9, digits_fieldG, digits_fieldX, digits_fieldY, digits_fieldN]

theorem ldI (nnn : BitVec 12) : Statement (.ldI nnn) := by
  intro _
  simp [encode, decode, digitsNNN_fieldG, digitsNNN_fieldNNN]

theorem jpV0 (nnn : BitVec 12) : Statement (.jpV0 nnn) := by
  intro _
  simp [encode, decode, digitsNNN_fieldG, digitsNNN_fieldNNN]

theorem rnd (x : Reg) (nn : Byte) : Statement (.rnd x nn) := by
  intro _
  simp [encode, decode, digitsXNN_fieldG, digitsXNN_fieldX, digitsXNN_fieldNN]

theorem drw (x y : Reg) (n : Nat) : Statement (.drw x y n) := by
  intro h
  have hn : n < 16 := by simpa [Instr.wellFormed] using h
  simp [encode, decode, digits_fieldG, digits_fieldX, digits_fieldY, digits_fieldN, Nat.mod_eq_of_lt hn]

theorem skp (x : Reg) : Statement (.skp x) := by
  intro _
  simp [encode, decode, decodeGroupE, digitsXNN_fieldG, digitsXNN_fieldX, digitsXNN_fieldNN]

theorem sknp (x : Reg) : Statement (.sknp x) := by
  intro _
  simp [encode, decode, decodeGroupE, digitsXNN_fieldG, digitsXNN_fieldX, digitsXNN_fieldNN]

theorem ldVxDt (x : Reg) : Statement (.ldVxDt x) := by
  intro _
  simp [encode, decode, decodeGroupF, digitsXNN_fieldG, digitsXNN_fieldX, digitsXNN_fieldNN]

theorem ldVxK (x : Reg) : Statement (.ldVxK x) := by
  intro _
  simp [encode, decode, decodeGroupF, digitsXNN_fieldG, digitsXNN_fieldX, digitsXNN_fieldNN]

theorem ldDt (x : Reg) : Statement (.ldDt x) := by
  intro _
  simp [encode, decode, decodeGroupF, digitsXNN_fieldG, digitsXNN_fieldX, digitsXNN_fieldNN]

theorem ldSt (x : Reg) : Statement (.ldSt x) := by
  intro _
  simp [encode, decode, decodeGroupF, digitsXNN_fieldG, digitsXNN_fieldX, digitsXNN_fieldNN]

theorem addI (x : Reg) : Statement (.addI x) := by
  intro _
  simp [encode, decode, decodeGroupF, digitsXNN_fieldG, digitsXNN_fieldX, digitsXNN_fieldNN]

theorem ldF (x : Reg) : Statement (.ldF x) := by
  intro _
  simp [encode, decode, decodeGroupF, digitsXNN_fieldG, digitsXNN_fieldX, digitsXNN_fieldNN]

theorem ldB (x : Reg) : Statement (.ldB x) := by
  intro _
  simp [encode, decode, decodeGroupF, digitsXNN_fieldG, digitsXNN_fieldX, digitsXNN_fieldNN]

theorem ldMemVx (x : Reg) : Statement (.ldMemVx x) := by
  intro _
  simp [encode, decode, decodeGroupF, digitsXNN_fieldG, digitsXNN_fieldX, digitsXNN_fieldNN]

theorem ldVxMem (x : Reg) : Statement (.ldVxMem x) := by
  intro _
  simp [encode, decode, decodeGroupF, digitsXNN_fieldG, digitsXNN_fieldX, digitsXNN_fieldNN]

end Sys2Proof.Laws.RoundTrip
end

