-- ==== Sys2Proof/Tests/Slice0.lean ====
section
/-!
SUPPORT. Tests of the model. Expected results come from the spec: the opcode patterns of 30_encoding.md R76, the vectors
V<n> and examples W<n> of 95_test_vectors.md, and hand calculation from the rules named. The witnesses show that the
hypotheses of each statement of Certificates/Slice0/Obligations.lean can be met, clause by clause.
-/

namespace Sys2Proof.Tests

open Sys2Proof.Machine

/-- A test on the next state of an outcome. -/
def nextIs (o : Host.Outcome State Fault Refusal) (p : State → Bool) : Bool :=
  match o with
  | .next s => p s
  | .fault _ => false
  | .refused _ => false

/-- The state in the middle of a tick with an opcode where the next cycle fetches it. -/
def ready (op : Nat) (s : State) : State := (s.setPhase (.execute 3)).withFetchWord 16 op

/-- One cycle of an opcode. -/
def cycleOf (op : Nat) (s : State) (p : State → Bool) : Bool := nextIs (step (ready op s)) p

/-- Reset with bytes at 0x300 and I pointing there. -/
def withBytes (bytes : List Byte) : State := (State.reset.setMem (State.reset.mem.writeBytes 0x300 bytes)).setI 0x300

/-! ### Well-formedness -/

theorem test_illformed_row_count : Instr.wellFormed (.drw 0 0 16) = false := by decide
theorem test_wellformed_row_count : Instr.wellFormed (.drw 0 0 15) = true := by decide
theorem test_illformed_program : programFits (List.replicate 3585 0) = false := by
  rw [programFits, List.length_replicate]; decide
theorem test_wellformed_program : programFits (List.replicate 3584 0) = true := by
  rw [programFits, List.length_replicate]; decide

/-! ### Decoding: every constructor, words from the patterns of R76 -/

theorem test_decode_display : decode 0x00E0 = .ok .cls ∧ decode 0xD3A7 = .ok (.drw 0x3 0xA 7) := by decide

theorem test_decode_control :
    decode 0x00EE = .ok .ret ∧ decode 0x1234 = .ok (.jp 0x234) ∧ decode 0x2FED = .ok (.call 0xFED) ∧
    decode 0x3A42 = .ok (.seImm 0xA 0x42) ∧ decode 0x4B99 = .ok (.sneImm 0xB 0x99) ∧
    decode 0x5120 = .ok (.seReg 0x1 0x2) ∧ decode 0x9EF0 = .ok (.sneReg 0xE 0xF) ∧
    decode 0xB300 = .ok (.jpV0 0x300) := by decide

theorem test_decode_alu :
    decode 0x6A5C = .ok (.ldImm 0xA 0x5C) ∧ decode 0x7F05 = .ok (.addImm 0xF 0x05) ∧
    decode 0x8120 = .ok (.ldReg 0x1 0x2) ∧ decode 0x8341 = .ok (.orReg 0x3 0x4) ∧
    decode 0x8562 = .ok (.andReg 0x5 0x6) ∧ decode 0x8783 = .ok (.xorReg 0x7 0x8) ∧
    decode 0x89A4 = .ok (.addReg 0x9 0xA) ∧ decode 0x8BC5 = .ok (.sub 0xB 0xC) ∧
    decode 0x8A36 = .ok (.shr 0xA 0x3) ∧ decode 0x8DE7 = .ok (.subn 0xD 0xE) ∧
    decode 0x810E = .ok (.shl 0x1 0x0) ∧ decode 0xC30F = .ok (.rnd 0x3 0x0F) := by decide

theorem test_decode_index_memory :
    decode 0xA2F0 = .ok (.ldI 0x2F0) ∧ decode 0xF21E = .ok (.addI 0x2) ∧ decode 0xF429 = .ok (.ldF 0x4) ∧
    decode 0xF533 = .ok (.ldB 0x5) ∧ decode 0xF255 = .ok (.ldMemVx 0x2) ∧ decode 0xFF65 = .ok (.ldVxMem 0xF) := by
  decide

theorem test_decode_timer_input :
    decode 0xE19E = .ok (.skp 0x1) ∧ decode 0xECA1 = .ok (.sknp 0xC) ∧ decode 0xF307 = .ok (.ldVxDt 0x3) ∧
    decode 0xF20A = .ok (.ldVxK 0x2) ∧ decode 0xF315 = .ok (.ldDt 0x3) ∧ decode 0xF818 = .ok (.ldSt 0x8) := by decide

/-- V1 to V4: opcodes outside the table, each rejected by its group. -/
theorem test_decode_rejects :
    decode 0x0123 = .error .unimplementedGroup0 ∧ decode 0x5121 = .error .unimplementedGroup5 ∧
    decode 0x8008 = .error .unimplementedGroup8 ∧ decode 0x800F = .error .unimplementedGroup8 ∧
    decode 0x9121 = .error .unimplementedGroup9 ∧ decode 0xE000 = .error .unimplementedGroupE ∧
    decode 0xF0FF = .error .unimplementedGroupF ∧ decodeBytes [0x60] = .error .truncated := by decide

/-- R53: the byte at the lower address is the high byte. -/
theorem test_decode_bytes_big_endian : decodeBytes [0x60, 0x05, 0x70] = .ok (.ldImm 0 0x05, [0x70]) := by decide

/-- R81: a few words, put together from their syntax. -/
theorem test_encode :
    encode (.call 0x400) = 0x2400 ∧ encode (.drw 0x1 0x2 5) = 0xD125 ∧ encode (.subn 0x1 0x2) = 0x8127 ∧
    encode (.ldMemVx 0x2) = 0xF255 := by decide

theorem test_decodeTableWord : decodeTableWord 16 0xD125 = some (.drw 1 2 5) ∧ decodeTableWord 16 0x5121 = none := by
  decide

/-! ### Cycle and faults -/

/-- V1. -/
theorem test_unimplemented_opcode :
    cycleOf 0x0123 State.reset (fun t => t.pc == 0x202 && t.ctrl == .running && t.v == State.reset.v &&
      t.diag == [⟨.unimplementedOpcode, 0x200, 0x0123⟩]) = true := by decide

/-- V6, its second cycle: a fetch at 0x1000. -/
theorem test_fetch_fault_at_end :
    nextIs (step ((State.reset.setPhase (.execute 3)).setPc 0x1000)) (fun t => t.ctrl == .halted && t.pc == 0x1000 &&
      t.halt == ⟨.memOutOfRange, some 0x1000, none, some 0x1000⟩) = true := by decide

/-- V7: the second byte of the fetch is the one out of range. -/
theorem test_fetch_fault_second_byte :
    nextIs (step ((State.reset.setPhase (.execute 3)).setPc 0xFFF)) (fun t => t.ctrl == .halted && t.pc == 0xFFF &&
      t.halt == ⟨.memOutOfRange, some 0xFFF, none, some 0x1000⟩) = true := by decide

/-- V8: an odd PC. -/
theorem test_fetch_odd_pc :
    cycleOf 0x6007 (State.reset.setPc 0x201) (fun t => t.reg 0 == 7 && t.pc == 0x203) = true := by decide

/-- V9: under the other policy the fetch at 0xFFF wraps to the glyph byte 0xF0. -/
theorem test_fetch_wrap :
    fetch16 .wrap (State.reset.mem.writeBytes 0xFFF [0x60]) 0xFFF = .ok 0x60F0 := by decide

/-- The first instruction of each word the host places runs at the next step, from reset. -/
theorem test_withFetchWord :
    nextIs (step (State.reset.withFetchWord 16 0x6A5C)) (fun t => t.reg 0xA == 0x5C && t.pc == 0x202) = true := by decide

/-! ### Display -/

/-- W5, V20. -/
theorem test_cls :
    nextIs (exec .cls (State.reset.setFb (fbToggle fbClear 5 3))) (fun t => t.fb == fbClear) = true := by decide

/-- V28: one pixel on and one off under a sprite of two bits. -/
theorem test_drw_collision :
    nextIs (exec (.drw 1 2 1) ((withBytes [0xC0]).setFb (fbToggle fbClear 1 0)))
      (fun t => t.pixel 0 0 && !t.pixel 1 0 && t.reg 15 == 1) = true := by decide

/-- V23 and V25: clipped at the right edge and at the bottom. -/
theorem test_drw_clips :
    nextIs (exec (.drw 1 2 1) ((withBytes [0xFF]).setReg 1 62))
      (fun t => t.pixel 62 0 && t.pixel 63 0 && !t.pixel 0 0 && !t.pixel 0 1 && t.reg 15 == 0) = true ∧
    nextIs (exec (.drw 1 2 2) ((withBytes [0x80, 0x80]).setReg 2 31))
      (fun t => t.pixel 0 31 && !t.pixel 0 0) = true := by decide

/-! ### Control transfer -/

/-- V42 and V45. -/
theorem test_ret :
    nextIs (exec .ret { State.reset with stack := State.reset.stack.set 0 0x202, sp := 1 })
      (fun t => t.pc == 0x202 && t.sp == 0) = true ∧
    nextIs (exec .ret (State.reset.setPc 0x206))
      (fun t => t.pc == 0x206 && t.diag == [⟨.stackUnderflow, 0x204, 0x00EE⟩]) = true := by decide

/-- V40. -/
theorem test_jp : cycleOf 0x1234 State.reset (fun t => t.pc == 0x234) = true := by decide

/-- V43. -/
theorem test_call_last_entry :
    nextIs (exec (.call 0x500) { State.reset with pc := 0x302, sp := 11 })
      (fun t => t.stack[11] == 0x302 && t.sp == 12 && t.pc == 0x500) = true := by decide

/-- V44. -/
theorem test_call_overflow :
    nextIs (exec (.call 0x500) { State.reset with pc := 0x302, sp := 12 })
      (fun t => t.ctrl == .halted && t.halt == ⟨.stackOverflow, some 0x300, some 0x2500, some 12⟩ && t.pc == 0x302 &&
        t.sp == 12) = true := by decide

/-- V46. -/
theorem test_skip_immediate :
    cycleOf 0x3342 (State.reset.setReg 3 0x42) (fun t => t.pc == 0x204) = true ∧
    cycleOf 0x4342 (State.reset.setReg 3 0x42) (fun t => t.pc == 0x202) = true := by decide

/-- V48: equal values in different registers. -/
theorem test_skip_register :
    cycleOf 0x5120 ((State.reset.setReg 1 7).setReg 2 7) (fun t => t.pc == 0x204) = true ∧
    cycleOf 0x9120 ((State.reset.setReg 1 7).setReg 2 7) (fun t => t.pc == 0x202) = true := by decide

/-- V52: the sum is not masked to 12 bits. -/
theorem test_jp_v0 : nextIs (exec (.jpV0 0xFFF) (State.reset.setReg 0 0xFF)) (fun t => t.pc == 0x10FE) = true := by
  decide

/-! ### Register arithmetic -/

/-- V60, V61, V63. -/
theorem test_loads_and_add :
    nextIs (exec (.ldImm 0xA 0x5C) State.reset) (fun t => t.reg 0xA == 0x5C) = true ∧
    nextIs (exec (.addImm 1 1) (State.reset.setReg 1 0xFF)) (fun t => t.reg 1 == 0 && t.reg 15 == 0) = true ∧
    nextIs (exec (.ldReg 1 2) (State.reset.setReg 2 0x9C)) (fun t => t.reg 1 == 0x9C) = true := by decide

/-- R135 to R137: their examples. -/
theorem test_logic :
    nextIs (exec (.orReg 1 2) ((State.reset.setReg 1 0x0F).setReg 2 0xF0)) (fun t => t.reg 1 == 0xFF) = true ∧
    nextIs (exec (.andReg 1 2) ((State.reset.setReg 1 0x3C).setReg 2 0x0F)) (fun t => t.reg 1 == 0x0C) = true ∧
    nextIs (exec (.xorReg 1 2) ((State.reset.setReg 1 0x3C).setReg 2 0x0F)) (fun t => t.reg 1 == 0x33) = true := by
  decide

/-- V66 and V71: the carry, and the result over it when X = 0xF. -/
theorem test_add :
    nextIs (exec (.addReg 1 2) ((State.reset.setReg 1 0xFA).setReg 2 0x0A)) (fun t => t.reg 1 == 4 && t.reg 15 == 1) =
      true ∧
    nextIs (exec (.addReg 15 2) ((State.reset.setReg 15 0x10).setReg 2 0xF5)) (fun t => t.reg 15 == 5) = true := by
  decide

/-- V75, V76, V79. -/
theorem test_sub :
    nextIs (exec (.sub 1 2) ((State.reset.setReg 1 3).setReg 2 0x0A)) (fun t => t.reg 1 == 0xF9 && t.reg 15 == 0) =
      true ∧
    nextIs (exec (.sub 1 2) ((State.reset.setReg 1 5).setReg 2 5)) (fun t => t.reg 1 == 0 && t.reg 15 == 1) = true ∧
    nextIs (exec (.sub 1 15) ((State.reset.setReg 1 5).setReg 15 7)) (fun t => t.reg 1 == 0xFE && t.reg 15 == 0) =
      true := by decide

/-- V85 and V88. -/
theorem test_subn :
    nextIs (exec (.subn 1 2) ((State.reset.setReg 1 3).setReg 2 0x0A)) (fun t => t.reg 1 == 7 && t.reg 15 == 1) = true ∧
    nextIs (exec (.subn 15 2) ((State.reset.setReg 15 2).setReg 2 1)) (fun t => t.reg 15 == 0xFF) = true := by decide

/-- V82, V84, V89, V92: Y is not read, and the result over the flag when X = 0xF. -/
theorem test_shifts :
    nextIs (exec (.shr 1 2) ((State.reset.setReg 1 4).setReg 2 0xFF)) (fun t => t.reg 1 == 2 && t.reg 15 == 0) = true ∧
    nextIs (exec (.shr 15 0) (State.reset.setReg 15 3)) (fun t => t.reg 15 == 1) = true ∧
    nextIs (exec (.shl 1 0) (State.reset.setReg 1 0x81)) (fun t => t.reg 1 == 2 && t.reg 15 == 1) = true ∧
    nextIs (exec (.shl 15 0) (State.reset.setReg 15 0xC0)) (fun t => t.reg 15 == 0x80) = true := by decide

/-- V71, V78, V84 in their SEQUENTIAL reading. -/
theorem test_sequential_mode :
    (flagOp .sequential carry (fun a b => a + b) 15 2 ((State.reset.setReg 15 0x10).setReg 2 0xF5)).reg 15 = 0xF6 ∧
    (flagOp .sequential noBorrow (fun a b => a - b) 15 2 ((State.reset.setReg 15 5).setReg 2 7)).reg 15 = 0xF9 ∧
    (flagOp .sequential (fun a _ => bit0 a) (fun a _ => a >>> 1) 15 15 (State.reset.setReg 15 3)).reg 15 = 0 := by decide

/-- V93, and V94 with a draw the state does not list. -/
theorem test_rnd :
    nextIs (exec (.rnd 3 0x0F) { State.reset with randIn := [0xB7, 0x01] })
      (fun t => t.reg 3 == 7 && t.randIn == [0x01]) = true := by decide

theorem test_rnd_masked_out (s : State) : nextIs (exec (.rnd 3 0) s) (fun t => t.reg 3 == 0) = true := by
  simp [exec, execRnd, nextIs, State.reg, State.setReg]

/-! ### Index register, loads and stores -/

/-- V100, V103, V105. -/
theorem test_index :
    nextIs (exec (.ldI 0x2F0) State.reset) (fun t => t.i == 0x2F0) = true ∧
    nextIs (exec (.addI 2) ((State.reset.setI 0xFFF).setReg 2 1)) (fun t => t.i == 0x1000 && t.reg 15 == 0) = true ∧
    nextIs (exec (.ldF 4) (State.reset.setReg 4 0xFF)) (fun t => t.i == 0x4FB) = true := by decide

/-- V106. -/
theorem test_bcd :
    nextIs (exec (.ldB 5) ((State.reset.setI 0x300).setReg 5 234))
      (fun t => t.readByte 0x300 == 2 && t.readByte 0x301 == 3 && t.readByte 0x302 == 4) = true := by decide

/-- V108: the third byte does not exist, so none is written. -/
theorem test_bcd_fault :
    nextIs (exec (.ldB 5) { State.reset with i := 0xFFE, pc := 0x202, v := State.reset.v.set 5 0x7B })
      (fun t => t.ctrl == .halted && t.mem == State.reset.mem &&
        t.halt == ⟨.memOutOfRange, some 0x200, some 0xF533, some 0x1000⟩) = true := by decide

/-- V109 and V114. -/
theorem test_store_registers :
    nextIs (exec (.ldMemVx 2) (((withBytes []).setReg 1 2).setReg 2 3))
      (fun t => t.mem.cells == [(0x301, 2), (0x302, 3)] && t.i == 0x300) = true ∧
    nextIs (exec (.ldMemVx 0) ((State.reset.setI 0x40).setReg 0 0xFF)) (fun t => t.readByte 0x40 == 0xFF) = true := by
  decide

/-- V112. -/
theorem test_load_registers :
    nextIs (exec (.ldVxMem 2) ((withBytes [7, 8, 9, 10]).setReg 3 0x55))
      (fun t => t.reg 0 == 7 && t.reg 1 == 8 && t.reg 2 == 9 && t.reg 3 == 0x55 && t.i == 0x300) = true := by decide

/-! ### Timers and input -/

/-- V120 to V122. -/
theorem test_timers :
    nextIs (exec (.ldVxDt 3) (State.reset.setDt 0x3C)) (fun t => t.reg 3 == 0x3C && t.dt == 0x3C) = true ∧
    nextIs (exec (.ldDt 3) (State.reset.setReg 3 0x3C)) (fun t => t.dt == 0x3C) = true ∧
    nextIs (exec (.ldSt 3) (State.reset.setReg 3 2)) (fun t => t.st == 2 && t.toneActive) = true := by decide

/-- V126 and V127. -/
theorem test_key_skips :
    cycleOf 0xE19E ((State.reset.setReg 1 5).setKey 5 true) (fun t => t.pc == 0x204) = true ∧
    cycleOf 0xE1A1 ((State.reset.setReg 1 5).setKey 5 true) (fun t => t.pc == 0x202) = true ∧
    cycleOf 0xE1A1 (State.reset.setReg 1 5) (fun t => t.pc == 0x204) = true := by decide

/-- V128. -/
theorem test_key_index_fault :
    cycleOf 0xE19E (State.reset.setReg 1 0x10) (fun t => t.ctrl == .halted && t.pc == 0x202 &&
      t.halt == ⟨.keyOutOfRange, some 0x200, some 0xE19E, some 0x10⟩) = true := by decide

/-- V130 and V131. -/
theorem test_wait_for_key :
    cycleOf 0xF20A ((State.reset.setKey 9 true).setKey 3 true) (fun t => t.reg 2 == 3 && t.pc == 0x202) = true ∧
    cycleOf 0xF20A State.reset (fun t => t.reg 2 == 0 && t.pc == 0x200) = true := by decide

/-- V124 and V125. -/
theorem test_timer_step :
    (timerStep State.reset).dt = 0 ∧ (timerStep (State.reset.setDt 1)).dt = 0 ∧
    (timerStep (State.reset.setSt 2)).st = 1 := by decide

/-! ### Controller and creation -/

/-- V140. -/
theorem test_pause :
    nextIs (step { State.reset with dt := 0x10, inputs := [[.pauseToggle]] })
      (fun t => t.ctrl == .paused && t.dt == 0x10 && t.pc == 0x200 && t.phase == .drain) = true := by decide

/-- V141. -/
theorem test_key_event_while_paused :
    nextIs (step { State.reset with ctrl := .paused, inputs := [[.keySet 2 true], [.quit]] })
      (fun t => t.ctrl == .paused && t.pressed 2 && t.inputs == [[.quit]]) = true := by decide

/-- V143. -/
theorem test_quit_discards :
    nextIs (step { State.reset with inputs := [[.quit, .pauseToggle]] })
      (fun t => t.ctrl == .halted && t.halt == ⟨.quit, none, none, none⟩) = true := by decide

/-- V144. -/
theorem test_halted_stays :
    nextIs (step { State.reset with ctrl := .halted, inputs := [[.keySet 2 true]] }) (fun t => !t.pressed 2) = true := by
  decide

/-- W9's bytes, and V146's failure. -/
theorem test_create :
    (State.create (.bytes [0x60, 0x05])).mem.cells = [(0x200, 0x60), (0x201, 0x05)] ∧
    (State.create .missing).status = (.halted, ⟨.loadFailure, none, none, none⟩) := by decide

/-- R51's table, and the zeros past it. -/
theorem test_glyph_bytes :
    (List.range 82).map State.reset.readByte =
      [0xF0, 0x90, 0x90, 0x90, 0xF0, 0x20, 0x60, 0x20, 0x20, 0x70, 0xF0, 0x10, 0xF0, 0x80, 0xF0] ++
      [0xF0, 0x10, 0xF0, 0x10, 0xF0, 0x90, 0x90, 0xF0, 0x10, 0x10, 0xF0, 0x80, 0xF0, 0x10, 0xF0] ++
      [0xF0, 0x80, 0xF0, 0x90, 0xF0, 0xF0, 0x10, 0x20, 0x40, 0x40, 0xF0, 0x90, 0xF0, 0x90, 0xF0] ++
      [0xF0, 0x90, 0xF0, 0x10, 0xF0, 0xF0, 0x90, 0xF0, 0x90, 0x90, 0xE0, 0x90, 0xE0, 0x90, 0xE0] ++
      [0xF0, 0x80, 0x80, 0x80, 0xF0, 0xE0, 0x90, 0x90, 0x90, 0xE0, 0xF0, 0x80, 0xF0, 0x80, 0xF0] ++
      [0xF0, 0x80, 0xF0, 0x80, 0x80, 0x00, 0x00] := by decide

/-! ### Witnesses of the statements' hypotheses -/

theorem witness_EncodeThenDecode : Instr.wellFormed (.drw 15 0 15) = true := by decide
theorem witness_EncodingPutsFieldsInPlace : Instr.wellFormed (.drw 0 15 15) = true := by decide
theorem witness_DecodeThenEncode : decode 0xFF65 = .ok (.ldVxMem 15) := by decide

theorem witness_DecodeSelectsTheMatchingRow :
    decode 0x8FFE = .ok (.shl 15 15) ∧ (0x8FFE : Word) &&& (rowOf (.shl 0 3)).1 = (rowOf (.shl 0 3)).2 := by decide

theorem witness_StepRunsTheDecodedInstruction :
    let s := ready 0x6A5C (State.reset.setPc 0xFFE)
    s.ctrl = .running ∧ s.phase = .execute 3 ∧ s.pc.toNat + 1 < 4096 ∧
      decode (wordOfBytes (s.readByte s.pc.toNat) (s.readByte (s.pc.toNat + 1))) = .ok (.ldImm 0xA 0x5C) := by decide

theorem witness_UnimplementedOpcodeIsSkipped :
    let s := ready 0x0123 State.reset
    s.ctrl = .running ∧ s.phase = .execute 3 ∧ s.pc.toNat + 1 < 4096 ∧
      wordOfBytes (s.readByte s.pc.toNat) (s.readByte (s.pc.toNat + 1)) = 0x0123 ∧
      decode 0x0123 = .error .unimplementedGroup0 := by decide

theorem witness_FetchOutOfRangeHalts :
    let s := (State.reset.setPhase (.execute 0)).setPc 0xFFF
    s.ctrl = .running ∧ s.phase = .execute 0 ∧ 4096 ≤ s.pc.toNat + 1 := by decide

theorem witness_HaltedIsTerminal : (State.create .missing).ctrl = .halted := by decide

theorem witness_PausedTicksFreezeTheMachine :
    let s := { State.reset with ctrl := .paused,
                                inputs := [[.keySet 2 true, .pauseToggle, .keySet 2 false, .pauseToggle], [.keySet 3 true]] }
    s.ctrl = .paused ∧ s.phase = .drain ∧
      ∀ batch ∈ s.inputs.take 2, Request.quit ∉ batch ∧ batch.count .pauseToggle % 2 = 0 := by
  refine ⟨rfl, rfl, ?_⟩
  simp

theorem witness_PausedTicksFreezeTheMachine_resume :
    let s := { State.reset with ctrl := .paused, inputs := [[.pauseToggle, .keySet 1 true], []] }
    s.ctrl = .paused ∧ Request.quit ∉ s.pending ∧ s.pending.count .pauseToggle % 2 = 1 := by decide

theorem witness_TickRunsItsCyclesThenTheTimer_drain :
    let s := { State.reset with inputs := [[.keySet 15 true]] }
    s.ctrl = .running ∧ s.phase = .drain ∧ ∀ r ∈ s.pending, ∃ k b, r = Request.keySet k b := by
  refine ⟨rfl, rfl, ?_⟩
  simp [State.pending]

theorem witness_TickRunsItsCyclesThenTheTimer_cycles :
    let s := ready 0x1200 State.reset
    s.ctrl = .running ∧ s.phase = .execute 3 ∧
      nextIs (Host.Core.run Sys2Proof.core 4 s) (fun t => t.ctrl == .running) = true := by decide

theorem witness_TickRunsItsCyclesThenTheTimer_timer_render :
    (State.reset.setPhase .timer).ctrl = .running ∧ (State.reset.setPhase .timer).phase = .timer ∧
    (State.reset.setPhase .render).ctrl = .running ∧ (State.reset.setPhase .render).phase = .render := by decide

theorem witness_TimerStepDecrementsBothTimers :
    (State.reset.setPhase .timer).ctrl = .running ∧ (State.reset.setPhase .timer).phase = .timer ∧
    (let s := ready 0x00E0 State.reset
     s.ctrl = .running ∧ s.phase = .execute 3 ∧ nextIs (step s) (fun t => t.ctrl == .running) = true) ∧
    (let s := (State.reset.setPhase (.execute 0)).withFetchWord 16 0x00E0
     nextIs (step s) (fun t => t.ctrl == .running && t.phase == .timer) = true) ∧
    (State.reset.ctrl = .running ∧ State.reset.phase = .drain ∧
      nextIs (step State.reset) (fun t => t.ctrl == .running) = true) ∧
    ((State.reset.setPhase .render).ctrl = .running ∧ (State.reset.setPhase .render).phase = .render) ∧
    (let s := ready 0xF315 (State.reset.setReg 3 9)
     s.ctrl = .running ∧ s.phase = .execute 3 ∧ nextIs (step s) (fun t => t.dt != s.dt) = true) ∧
    (let s := ready 0xF318 (State.reset.setReg 3 9)
     s.ctrl = .running ∧ s.phase = .execute 3 ∧ nextIs (step s) (fun t => t.st != s.st) = true) ∧
    (let s := { State.reset with ctrl := .paused }
     s.ctrl ≠ .running ∧ nextIs (step s) (fun _ => true) = true) := by decide

theorem witness_TimerStepDecrementsBothTimers_drain :
    State.reset.drainsNext ∧ nextIs (step State.reset) (fun t => t.ctrl == .running) = true :=
  ⟨.inl ⟨rfl, rfl⟩, by decide⟩

theorem witness_ControllerTransitions_creation :
    ([0x12, 0x00] : List Byte).length ≤ 3584 ∧ 3584 < (List.replicate 3585 (0 : Byte)).length :=
  ⟨by decide, by rw [List.length_replicate]; decide⟩

theorem witness_ControllerTransitions_drain :
    (let s := { State.reset with inputs := [[.keySet 0 true, .pauseToggle, .keySet 0 false]] }
     s.drainsNext ∧ Request.quit ∉ s.pending ∧ s.pending.count .pauseToggle % 2 ≠ 0) ∧
    (let s := { State.reset with ctrl := .paused, inputs := [[.pauseToggle, .pauseToggle]] }
     s.drainsNext ∧ Request.quit ∉ s.pending ∧ s.pending.count .pauseToggle % 2 = 0) ∧
    (let s := { State.reset with inputs := [[.pauseToggle, .quit]] }
     s.drainsNext ∧ Request.quit ∈ s.pending) :=
  ⟨⟨.inl ⟨rfl, rfl⟩, by decide, by decide⟩, ⟨.inr rfl, by decide, by decide⟩, ⟨.inl ⟨rfl, rfl⟩, by decide⟩⟩

theorem witness_ControllerTransitions_cycle :
    (let s := (State.reset.setPhase (.execute 0)).setPc 0xFFF
     s.ctrl = .running ∧ s.phase = .execute 0 ∧ 4096 ≤ s.pc.toNat + 1) ∧
    (let s := ready 0x2400 ({ State.reset with sp := 12 }.setPc 0xFFE)
     s.ctrl = .running ∧ s.phase = .execute 3 ∧ s.pc.toNat + 1 < 4096 ∧
       decode (wordOfBytes (s.readByte s.pc.toNat) (s.readByte (s.pc.toNat + 1))) = .ok (.call 0x400) ∧
       faultOf (.call 0x400) s = some (.stackOverflow, 12)) ∧
    (State.create .missing).ctrl = .halted := by decide

theorem witness_OnlyTheseEventsLeaveRunning :
    (let s := { State.reset with inputs := [[.pauseToggle]] }
     s.ctrl = .running ∧ nextIs (step s) (fun t => t.ctrl != .running) = true) ∧
    (let s := (State.reset.setPhase (.execute 0)).setPc 0x1000
     s.ctrl = .running ∧ nextIs (step s) (fun t => t.ctrl != .running) = true) := by decide

theorem witness_QuitHaltsBeforeTheNextCycle :
    let s := { State.reset with ctrl := .paused, inputs := [[.keySet 0 true, .quit]] }
    s.drainsNext ∧ Request.quit ∈ s.pending := ⟨.inr rfl, by decide⟩

theorem witness_QuitDiscardsLaterRequests :
    let s := { State.reset with inputs := [[.keySet 0 true, .quit, .keySet 0 false]] }
    s.drainsNext ∧ Request.quit ∉ [Request.keySet 0 true] ∧
      s.inputs = ([Request.keySet 0 true] ++ .quit :: [.keySet 0 false]) :: [] := ⟨.inl ⟨rfl, rfl⟩, by decide, rfl⟩

theorem witness_DrainedKeyEventsSetTheLatch :
    let s := { State.reset with inputs := [[.keySet 4 true, .pauseToggle, .keySet 4 false, .pauseToggle]] }
    s.drainsNext ∧ Request.quit ∉ s.pending := ⟨.inl ⟨rfl, rfl⟩, by decide⟩

theorem witness_CreatedMachineState : (List.replicate 3584 (0xFF : Byte)).length ≤ 3584 := by
  rw [List.length_replicate]

theorem witness_FailedLoadNeverRuns :
    ProgramSource.missing = .missing ∧
    ∃ prog : List Byte, ProgramSource.bytes (List.replicate 3585 1) = .bytes prog ∧ 3584 < prog.length :=
  ⟨rfl, _, rfl, by rw [List.length_replicate]; decide⟩

theorem witness_EveryStepKeepsTheInvariant :
    (withBytes [1, 2, 3]).Inv ∧ nextIs (step (ready 0xF255 (withBytes [1, 2, 3]))) (fun _ => true) = true ∧
    (ready 0xF255 (withBytes [1, 2, 3])).Inv := by decide

theorem witness_CanonicalMemoriesThatReadAlikeAreEqual :
    Memory.wf ⟨[(0x300, 1), (0x301, 2)]⟩ = true ∧
      ((Memory.mk [(0x301, 2)]).write 0x300 1) = ⟨[(0x300, 1), (0x301, 2)]⟩ := by decide

theorem witness_OnlyListedRegistersAreWritten :
    nextIs (exec (.ldVxMem 14) State.reset) (fun _ => true) = true ∧ (15 : Reg) ∉ regsWritten (.ldVxMem 14) := by decide

theorem witness_UnlistedRegistersHaveNoInfluence :
    ((3 : Reg) ∉ regsRead (.addReg 1 2) ∧ (3 : Reg) ∉ regsWritten (.addReg 1 2)) ∧
    ((15 : Reg) ∉ regsRead (.drw 1 2 1) ∧ (15 : Reg) ∈ regsWritten (.drw 1 2 1) ∧
      faultOf (.drw 1 2 1) (State.reset.setI 0xFFF) = none) ∧
    ((3 : Reg) ∉ regsRead (.ldVxK 3) ∧ (3 : Reg) ∈ regsWritten (.ldVxK 3) ∧ faultOf (.ldVxK 3) State.reset = none ∧
      ∀ k, State.reset.pressed k = false) ∧
    ((0 : Reg) ∉ regsRead (.ldVxMem 1) ∧ (0 : Reg) ∈ regsWritten (.ldVxMem 1) ∧
      faultOf (.ldVxMem 1) (State.reset.setI 0xFFF) ≠ none) := by decide

theorem witness_UnlistedRegistersHaveNoInfluence_key :
    ∀ x, Instr.ldVxK 3 = .ldVxK x → ∃ k, (State.reset.setKey 0 true).pressed k = true := fun _ _ => ⟨0, by decide⟩

theorem witness_SpecialStateHasNamedWriters :
    nextIs (exec (.jp 0x300) State.reset) (fun t => t.pc != State.reset.pc) = true ∧
    nextIs (exec (.call 0x300) { State.reset with sp := 12 })
      (fun t => t.ctrl != State.reset.ctrl && t.halt != State.reset.halt) = true ∧
    nextIs (exec (.ldI 0x2F0) State.reset) (fun t => t.i != State.reset.i) = true ∧
    nextIs (exec (.ldDt 0) (State.reset.setReg 0 9)) (fun t => t.dt != 0) = true ∧
    nextIs (exec (.ldSt 0) (State.reset.setReg 0 9)) (fun t => t.st != 0) = true ∧
    nextIs (exec (.call 0x400) State.reset) (fun t => t.sp != 0 && t.stack != State.reset.stack) = true ∧
    nextIs (exec (.drw 0 0 5) State.reset) (fun t => t.fb != fbClear) = true ∧
    nextIs (exec (.ldB 0) State.reset) (fun t => t.mem != State.reset.mem) = true ∧
    nextIs (exec .ret State.reset) (fun t => t.diag != []) = true ∧
    nextIs (exec (.rnd 0 0) State.reset) (fun t => t.draws != 0) = true := by decide

theorem witness_OtherInstructionsKeepTheAdvancedPc :
    keepsPc (.ldMemVx 15) = true ∧ nextIs (exec (.ldMemVx 15) State.reset) (fun _ => true) = true := by decide

theorem witness_FatalFaultsArePreciseAndRecorded :
    faultOf (.drw 0 0 1) (State.reset.setI 0xFFF) = none ∧
    faultOf (.drw 0 0 2) (State.reset.setI 0xFFF) = some (.memOutOfRange, 4096) ∧
    faultOf (.drw 0 0 0) (State.reset.setI 0xFFFF) = none ∧
    faultOf (.call 0) { State.reset with sp := 11 } = none ∧
    faultOf (.call 0) { State.reset with sp := 12 } = some (.stackOverflow, 12) ∧
    faultOf (.skp 0) (State.reset.setReg 0 15) = none ∧
    faultOf (.sknp 0) (State.reset.setReg 0 16) = some (.keyOutOfRange, 16) := by decide

theorem witness_DrawXorsTheClippedSprite :
    (State.reset.setI 0xFF1).i.toNat + 15 ≤ 4096 ∧ (60 : Nat) < 64 ∧ (31 : Nat) < 32 := by decide

theorem witness_DrawingTwiceRestoresTheScreen :
    (State.reset.i.toNat + 5 ≤ 4096) ∧
      nextIs (exec (.drw 1 2 5) State.reset) (fun t => t.reg 1 == State.reset.reg 1 && t.reg 2 == State.reset.reg 2) =
        true := by decide

theorem witness_FramebufferViewIsRowMajor : (63 : Nat) < 64 := by decide
theorem witness_CallPushesTheReturnAddress : ({ State.reset with sp := 11 } : State).sp.val < 12 := by decide
theorem witness_ReturnPopsOrReportsUnderflow :
    0 < ({ State.reset with sp := 12 } : State).sp.val ∧ State.reset.sp.val = 0 := by decide
theorem witness_CallThenReturnRestoresPc : State.reset.sp.val < 12 := by decide

theorem witness_SkipsMovePcByOneWord :
    fieldN 0x512F ≠ 0 ∧ fieldG 0x512F = 0x5 ∧ fieldN 0x9121 ≠ 0 ∧ fieldG 0x9121 = 0x9 := by decide

theorem witness_not_the_flag_register : (14 : Reg) ≠ regF ∧ (0 : Reg) ≠ regF := by decide

theorem witness_RandomMasksAFreshDraw : (0 : Reg) ≠ 15 := by decide
theorem witness_StoreDecimalDigits : (State.reset.setI 0xFFD).indexAddr 0 + 3 ≤ 4096 := by decide
theorem witness_StoreRegistersInOrder :
    (State.reset.setI 0xFF0).indexAddr 0 + ((15 : Reg).val + 1) ≤ 4096 ∧ (15 : Reg) ≤ 15 := by decide
theorem witness_LoadRegistersInOrder :
    (State.reset.setI 0xFFF).indexAddr 0 + ((0 : Reg).val + 1) ≤ 4096 ∧ (0 : Reg) ≤ 0 ∧ (0 : Reg) < 1 := by decide
theorem witness_StoreThenLoadRestoresRegisters :
    (State.reset.setI 0xFF8).indexAddr 0 + ((7 : Reg).val + 1) ≤ 4096 ∧ (7 : Reg) ≤ 7 ∧ (7 : Reg) < 8 := by decide
theorem witness_StoredOpcodeIsFetchedNext :
    let s := (State.reset.setI 0xFFE).setPc 0xFFE
    1 ≤ (1 : Reg).val ∧ s.indexAddr 0 + ((1 : Reg).val + 1) ≤ 4096 ∧ s.indexAddr 0 = s.pc.toNat := by decide
theorem witness_KeySkipsFollowTheLatch : ((State.reset.setReg 1 15).reg 1).toNat = (15 : Key).val := by decide

theorem witness_WaitForKeyTakesTheLowestOrRewinds :
    (let s := (State.reset.setKey 15 true).setKey 3 true
     s.pressed 3 = true ∧ ∀ j : Key, j < 3 → s.pressed j = false) ∧
    (∀ k : Key, State.reset.pressed k = false) ∧
    (let s := ready 0xF20A State.reset
     s.ctrl = .running ∧ s.phase = .execute 3 ∧ s.pc.toNat + 1 < 4096 ∧
       decode (wordOfBytes (s.readByte s.pc.toNat) (s.readByte (s.pc.toNat + 1))) = .ok (.ldVxK 2) ∧
       ∀ q : Key, s.pressed q = false) := by decide

end Sys2Proof.Tests
end

section
/-!
PROOF. The cycle (40_cycle.md): what the step of a RUNNING tick's cycle does once its opcode is fetched, and the opcode
outside the table (R97).
-/

namespace Sys2Proof.Machine

/-- The step of a RUNNING tick with cycles left is one cycle (R226, log 1). -/
theorem step_running_execute {s : State} {k : Nat} (hctrl : s.ctrl = .running) (hphase : s.phase = .execute k) :
    step s = cycle (s.setPhase (cyclesLeft k)) := by
  simp only [step, controllerStep, hctrl, runningStep, hphase]

/-- A cycle whose two bytes exist executes the word they form on the advanced state (R91, R92). -/
theorem cycle_fetched {s : State} (hpc : s.pc.toNat + 1 < 4096) :
    cycle s = execOpcode (wordOfBytes (s.readByte s.pc.toNat) (s.readByte (s.pc.toNat + 1))) s.advance := by
  simp only [cycle, fetch16_ok _ _ _ hpc, State.readByte]

/-- An opcode that does not decode executes as the diagnostic alone (R97). -/
theorem execOpcode_of_decode_error {op : Word} {e : DecodeReject} (s : State) (h : decode op = .error e) :
    execOpcode op s = .next (s.emitDiag .unimplementedOpcode op) := by
  simp only [execOpcode, h, execUnimplemented]

/-- A RUNNING tick's step with both opcode bytes in memory: fetch, advance, execute (R90 to R94). -/
theorem step_fetched {s : State} {k : Nat} (hctrl : s.ctrl = .running) (hphase : s.phase = .execute k)
    (hpc : s.pc.toNat + 1 < 4096) :
    step s = execOpcode (wordOfBytes (s.readByte s.pc.toNat) (s.readByte (s.pc.toNat + 1)))
      (s.setPhase (cyclesLeft k)).advance := by
  rw [step_running_execute hctrl hphase]
  exact cycle_fetched (s := s.setPhase (cyclesLeft k)) hpc

/-- Settles O8: the step's next state is the advanced state with one diagnostic, whose PC_fetch is the PC before the
advance. -/
theorem unimplementedOpcodeIsSkipped : Obligations.UnimplementedOpcodeIsSkipped := by
  intro s k op e hctrl hphase hpc hop hdecode
  have hstep : step s = .next ((s.setPhase (cyclesLeft k)).advance.emitDiag .unimplementedOpcode op) := by
    rw [step_fetched hctrl hphase hpc, hop, execOpcode_of_decode_error _ hdecode]
  refine ⟨_, hstep, by simp [hctrl], by simp, by simp, rfl, ?_, ?_⟩
  · intro r; simp
  · intro a; simp

end Sys2Proof.Machine
end

section
/-!
PROOF. The display (41_display.md): 00E0 clears the screen (R100).
-/

namespace Sys2Proof.Machine

/-- 00E0 replaces the framebuffer with the clear one (R100). -/
theorem exec_cls (s : State) : exec .cls s = .next (s.setFb fbClear) := rfl

/-- Settles O33: 00E0 answers with the state whose framebuffer alone is replaced, by one that has every pixel off. -/
theorem clearScreenTurnsEveryPixelOff : Obligations.ClearScreenTurnsEveryPixelOff := by
  intro s
  refine ⟨s.setFb fbClear, exec_cls s, ?pixels, rfl, ?registers, ?bytes⟩
  case pixels =>
    intro x y
    rw [State.setFb_pixel, fbPixel_fbClear]
  case registers => exact State.setFb_reg s fbClear
  case bytes => exact State.setFb_readByte s fbClear

end Sys2Proof.Machine
end

section
/-!
PROOF. Control flow (42_control.md): 1NNN jumps to NNN (R111).
-/

namespace Sys2Proof.Machine

/-- Zero extension keeps the number an NNN operand names (R73). -/
@[simp] theorem addrNNN_toNat (nnn : BitVec 12) : (addrNNN nnn).toNat = nnn.toNat :=
  BitVec.toNat_setWidth_of_le (by decide)

/-- A write of PC changes PC alone. -/
theorem onlyPc_setPc (s : State) (a : Word) : OnlyPc s (s.setPc a) :=
  ⟨rfl, State.setPc_reg s a, State.setPc_readByte s a⟩

/-- 1NNN writes its target to PC (R111). -/
theorem exec_jp (nnn : BitVec 12) (s : State) : exec (.jp nnn) s = .next (s.setPc (addrNNN nnn)) := rfl

/-- Settles O37: 1NNN answers with the state whose PC alone is written, with the zero-extended target. -/
theorem jumpSetsPc : Obligations.JumpSetsPc := by
  intro nnn s
  refine ⟨s.setPc (addrNNN nnn), exec_jp nnn s, ?target, onlyPc_setPc s (addrNNN nnn)⟩
  case target => rw [State.setPc_pc, addrNNN_toNat]

end Sys2Proof.Machine
end

section
/-!
PROOF. Register arithmetic (43_alu.md): 6XNN and 8XY0 load VX (R132, R134).
-/

namespace Sys2Proof.Machine

/-- A register written reads as the value written. -/
theorem State.setReg_reg_self (s : State) (x : Reg) (b : Byte) : (s.setReg x b).reg x = b := by
  rw [State.setReg_reg, if_pos rfl]

/-- A write of VX changes VX alone, whichever register X is. -/
theorem onlyRegs_setReg (s : State) (x : Reg) (b : Byte) : OnlyRegs [x] s (s.setReg x b) := by
  refine ⟨rfl, ?others, State.setReg_readByte s x b⟩
  case others =>
    intro r hr
    rw [State.setReg_reg, if_neg (List.ne_of_not_mem_cons hr)]

/-- 6XNN writes NN to VX (R132). -/
theorem exec_ldImm (x : Reg) (nn : Byte) (s : State) : exec (.ldImm x nn) s = .next (s.setReg x nn) := rfl

/-- 8XY0 writes VY to VX (R134). -/
theorem exec_ldReg (x y : Reg) (s : State) : exec (.ldReg x y) s = .next (s.setReg x (s.reg y)) := rfl

/-- Settles O43: each load answers with the state in which VX alone is written, with NN or with VY. -/
theorem registerLoadsWriteTheDestination : Obligations.RegisterLoadsWriteTheDestination := by
  constructor
  case left =>
    intro x nn s
    exact ⟨s.setReg x nn, exec_ldImm x nn s, State.setReg_reg_self s x nn, onlyRegs_setReg s x nn⟩
  case right =>
    intro x y s
    exact ⟨s.setReg x (s.reg y), exec_ldReg x y s, State.setReg_reg_self s x _, onlyRegs_setReg s x _⟩

end Sys2Proof.Machine
end

section
/-!
PROOF. Index register, loads and stores (44_index_memory.md): ANNN loads I (R160).
-/

namespace Sys2Proof.Machine

/-- A write of I changes I alone. -/
theorem onlyIndex_setI (s : State) (a : Word) : OnlyIndex s (s.setI a) :=
  ⟨rfl, State.setI_reg s a, State.setI_readByte s a⟩

/-- ANNN writes its constant, zero-extended, to I (R160). -/
theorem exec_ldI (nnn : BitVec 12) (s : State) : exec (.ldI nnn) s = .next (s.setI (addrNNN nnn)) := rfl

/-- Settles O49: ANNN answers with the state whose I alone is written, with the zero-extended constant. -/
theorem loadIndexSetsI : Obligations.LoadIndexSetsI := by
  intro nnn s
  refine ⟨s.setI (addrNNN nnn), exec_ldI nnn s, ?constant, onlyIndex_setI s (addrNNN nnn)⟩
  case constant => rw [State.setI_i, addrNNN_toNat]

end Sys2Proof.Machine
end

section
/-!
PROOF. The timers (45_timer_input.md): FX07 reads DT, FX15 and FX18 write DT and ST, and the tone follows ST (R183 to
R185).
-/

namespace Sys2Proof.Machine

/-- The tone sounds exactly while ST is positive (R41). -/
theorem State.toneActive_iff_st_pos (s : State) : s.toneActive = true ↔ 0 < s.st.toNat := by
  rw [State.toneActive, bne_iff_ne, BitVec.toNat_ne, Nat.pos_iff_ne_zero, BitVec.ofNat_eq_ofNat, BitVec.toNat_zero]

/-- FX07 writes DT to VX (R183). -/
theorem exec_ldVxDt (x : Reg) (s : State) : exec (.ldVxDt x) s = .next (s.setReg x s.dt) := rfl

/-- FX15 writes VX to DT (R184). -/
theorem exec_ldDt (x : Reg) (s : State) : exec (.ldDt x) s = .next (s.setDt (s.reg x)) := rfl

/-- FX18 writes VX to ST (R185). -/
theorem exec_ldSt (x : Reg) (s : State) : exec (.ldSt x) s = .next (s.setSt (s.reg x)) := rfl

/-- Settles O56: each transfer answers with the state in which its destination alone is written; the tone after FX18
is read off the new ST. -/
theorem timerTransfers : Obligations.TimerTransfers := by
  refine ⟨?readDelay, ?writeDelay, ?writeSound⟩
  case readDelay =>
    intro x s
    exact ⟨s.setReg x s.dt, exec_ldVxDt x s, State.setReg_reg_self s x s.dt, onlyRegs_setReg s x s.dt⟩
  case writeDelay =>
    intro x s
    exact ⟨s.setDt (s.reg x), exec_ldDt x s, State.setDt_dt s _, rfl, State.setDt_reg s _, State.setDt_readByte s _⟩
  case writeSound =>
    intro x s
    have tone : (s.setSt (s.reg x)).toneActive = true ↔ 0 < (s.reg x).toNat :=
      State.toneActive_iff_st_pos (s.setSt (s.reg x))
    exact ⟨s.setSt (s.reg x), exec_ldSt x s, State.setSt_st s _, rfl, tone, State.setSt_reg s _,
      State.setSt_readByte s _⟩

end Sys2Proof.Machine
end

section
/-!
PROOF. The encoding (30_encoding.md): encoding and decoding are inverse to each other, the decoder follows the masks of
the opcode table, and the opcodes it rejects are those of R77.
-/

namespace Sys2Proof.Machine

/-! ### Encoding, then decoding -/

/-- The family RoundTrip as one statement: no operand of a well-formed instruction is lost (R76, R81). -/
theorem decode_encode {i : Instr} (h : i.wellFormed = true) : decode (encode i) = .ok i := by
  cases i with
  | cls => exact Laws.RoundTrip.cls h
  | ret => exact Laws.RoundTrip.ret h
  | jp nnn => exact Laws.RoundTrip.jp nnn h
  | call nnn => exact Laws.RoundTrip.call nnn h
  | seImm x nn => exact Laws.RoundTrip.seImm x nn h
  | sneImm x nn => exact Laws.RoundTrip.sneImm x nn h
  | seReg x y => exact Laws.RoundTrip.seReg x y h
  | ldImm x nn => exact Laws.RoundTrip.ldImm x nn h
  | addImm x nn => exact Laws.RoundTrip.addImm x nn h
  | ldReg x y => exact Laws.RoundTrip.ldReg x y h
  | orReg x y => exact Laws.RoundTrip.orReg x y h
  | andReg x y => exact Laws.RoundTrip.andReg x y h
  | xorReg x y => exact Laws.RoundTrip.xorReg x y h
  | addReg x y => exact Laws.RoundTrip.addReg x y h
  | sub x y => exact Laws.RoundTrip.sub x y h
  | shr x y => exact Laws.RoundTrip.shr x y h
  | subn x y => exact Laws.RoundTrip.subn x y h
  | shl x y => exact Laws.RoundTrip.shl x y h
  | sneReg x y => exact Laws.RoundTrip.sneReg x y h
  | ldI nnn => exact Laws.RoundTrip.ldI nnn h
  | jpV0 nnn => exact Laws.RoundTrip.jpV0 nnn h
  | rnd x nn => exact Laws.RoundTrip.rnd x nn h
  | drw x y n => exact Laws.RoundTrip.drw x y n h
  | skp x => exact Laws.RoundTrip.skp x h
  | sknp x => exact Laws.RoundTrip.sknp x h
  | ldVxDt x => exact Laws.RoundTrip.ldVxDt x h
  | ldVxK x => exact Laws.RoundTrip.ldVxK x h
  | ldDt x => exact Laws.RoundTrip.ldDt x h
  | ldSt x => exact Laws.RoundTrip.ldSt x h
  | addI x => exact Laws.RoundTrip.addI x h
  | ldF x => exact Laws.RoundTrip.ldF x h
  | ldB x => exact Laws.RoundTrip.ldB x h
  | ldMemVx x => exact Laws.RoundTrip.ldMemVx x h
  | ldVxMem x => exact Laws.RoundTrip.ldVxMem x h

/-- Settles O1: the family RoundTrip, and for bytes the decoder reads the word back whole. -/
theorem encodeThenDecode : Obligations.EncodeThenDecode := by
  intro i h
  have hdecode := decode_encode h
  refine ⟨hdecode, fun rest => ?bytes⟩
  case bytes =>
    show decodeBytes (highByte (encode i) :: lowByte (encode i) :: rest) = .ok (i, rest)
    rw [decodeBytes_bytes, hdecode]

/-! ### Decoding, then encoding -/

/-- An opcode of the format `xyn` is put together from its four digits (R71). -/
theorem digits_of_fields {op : Word} {g n : BitVec 4} (hg : (fieldG op).toNat = g.toNat)
    (hn : (fieldN op).toNat = n.toNat) : digits g (regField (fieldX op)) (regField (fieldY op)) n = op := by
  apply BitVec.eq_of_toNat_eq
  rw [digits_toNat, regField_toNat, regField_toNat, fieldX_val, fieldY_val, ← hg, ← hn, fieldG_toNat, fieldN_toNat]
  have := op.isLt; omega

/-- An opcode of the format `xnn` is put together from its group, X and NN (R71). -/
theorem digitsXNN_of_fields {op : Word} {g : BitVec 4} {nn : Byte} (hg : (fieldG op).toNat = g.toNat)
    (hnn : (fieldNN op).toNat = nn.toNat) : digitsXNN g (fieldX op) nn = op := by
  apply BitVec.eq_of_toNat_eq
  rw [digitsXNN_toNat, fieldX_val, ← hg, ← hnn, fieldG_toNat, fieldNN_toNat]
  have := op.isLt; omega

/-- An opcode of the format `nnn` is put together from its group and NNN (R71). -/
theorem digitsNNN_of_fields {op : Word} {g : BitVec 4} (hg : (fieldG op).toNat = g.toNat) :
    digitsNNN g (fieldNNN op) = op := by
  apply BitVec.eq_of_toNat_eq
  rw [digitsNNN_toNat, ← hg, fieldG_toNat, fieldNNN_toNat]
  have := op.isLt; omega

/-- A decoded opcode is the encoding of its instruction, which is well formed. -/
def Spells (op : Word) (i : Instr) : Prop := i.wellFormed = true ∧ encode i = op

/-- Group 0 decodes what its encodings spell (R75). -/
theorem decodeGroup0_spells {op : Word} {i : Instr} (h : decodeGroup0 op = .ok i) : Spells op i := by
  unfold decodeGroup0 at h
  split at h <;> cases h
  case h_1 hop => exact ⟨rfl, BitVec.eq_of_toNat_eq hop.symm⟩
  case h_2 hop => exact ⟨rfl, BitVec.eq_of_toNat_eq hop.symm⟩

/-- Group 5 decodes what its encoding spells (R75). -/
theorem decodeGroup5_spells {op : Word} {i : Instr} (hg : (fieldG op).toNat = 0x5) (h : decodeGroup5 op = .ok i) :
    Spells op i := by
  unfold decodeGroup5 at h
  split at h <;> cases h
  case h_1 hn => exact ⟨rfl, digits_of_fields hg hn⟩

/-- Group 8 decodes what its encodings spell (R75). -/
theorem decodeGroup8_spells {op : Word} {i : Instr} (hg : (fieldG op).toNat = 0x8) (h : decodeGroup8 op = .ok i) :
    Spells op i := by
  unfold decodeGroup8 at h
  split at h <;> cases h
  all_goals rename_i hn; exact ⟨rfl, digits_of_fields hg hn⟩

/-- Group 9 decodes what its encoding spells (R75). -/
theorem decodeGroup9_spells {op : Word} {i : Instr} (hg : (fieldG op).toNat = 0x9) (h : decodeGroup9 op = .ok i) :
    Spells op i := by
  unfold decodeGroup9 at h
  split at h <;> cases h
  case h_1 hn => exact ⟨rfl, digits_of_fields hg hn⟩

/-- Group E decodes what its encodings spell (R75). -/
theorem decodeGroupE_spells {op : Word} {i : Instr} (hg : (fieldG op).toNat = 0xE) (h : decodeGroupE op = .ok i) :
    Spells op i := by
  unfold decodeGroupE at h
  split at h <;> cases h
  all_goals rename_i hnn; exact ⟨rfl, digitsXNN_of_fields hg hnn⟩

/-- Group F decodes what its encodings spell (R75). -/
theorem decodeGroupF_spells {op : Word} {i : Instr} (hg : (fieldG op).toNat = 0xF) (h : decodeGroupF op = .ok i) :
    Spells op i := by
  unfold decodeGroupF at h
  split at h <;> cases h
  all_goals rename_i hnn; exact ⟨rfl, digitsXNN_of_fields hg hnn⟩

/-- The decoder drops no bit of an opcode (R71 to R76). -/
theorem decode_spells {op : Word} {i : Instr} (h : decode op = .ok i) : Spells op i := by
  unfold decode at h
  split at h
  case h_1 hg => exact decodeGroup0_spells h
  case h_6 hg => exact decodeGroup5_spells hg h
  case h_9 hg => exact decodeGroup8_spells hg h
  case h_10 hg => exact decodeGroup9_spells hg h
  case h_14 hg =>
    cases h
    exact ⟨by simpa [Instr.wellFormed] using (fieldN op).isLt, by simpa [encode] using digits_of_fields hg rfl⟩
  case h_15 hg => exact decodeGroupE_spells hg h
  case h_16 =>
    have hg : (fieldG op).toNat = 0xF := by
      have := (fieldG op).isLt
      simp only [imp_false] at *
      omega
    exact decodeGroupF_spells hg h
  case h_2 | h_3 | h_11 | h_12 =>
    rename_i hg
    cases h
    exact ⟨rfl, digitsNNN_of_fields hg⟩
  case h_4 | h_5 | h_7 | h_8 | h_13 =>
    rename_i hg
    cases h
    exact ⟨rfl, digitsXNN_of_fields hg rfl⟩

/-- Settles O2: every arm of the decoder takes the opcode apart into the fields its encoding puts together. -/
theorem decodeThenEncode : Obligations.DecodeThenEncode := fun _ _ h => decode_spells h

/-! ### The rows of the opcode table -/

/-- Every opcode is its four digits. -/
theorem eq_digits (op : Word) : op = digits (fieldG op) (regField (fieldX op)) (regField (fieldY op)) (fieldN op) :=
  (digits_of_fields rfl rfl).symm

/-- AND digit by digit. -/
theorem digits_and_digits (a b c d a' b' c' d' : BitVec 4) :
    digits a b c d &&& digits a' b' c' d' = digits (a &&& a') (b &&& b') (c &&& c') (d &&& d') := by
  have h : (a ++ b ++ c ++ d) &&& (a' ++ b' ++ c' ++ d') = (a &&& a') ++ (b &&& b') ++ (c &&& c') ++ (d &&& d') := by
    rw [BitVec.and_append, BitVec.and_append, BitVec.and_append]
  exact h

/-- An opcode under a mask of whole digits keeps those digits and has 0 elsewhere. -/
theorem and_digits (op : Word) (a b c d : BitVec 4) : op &&& digits a b c d =
    digits (fieldG op &&& a) (regField (fieldX op) &&& b) (regField (fieldY op) &&& c) (fieldN op &&& d) := by
  rw [← digits_and_digits, ← eq_digits]

/-- A digit of the mask that is F keeps the opcode's digit. -/
theorem digit_and_ones (d : BitVec 4) : d &&& 0xF#4 = d := BitVec.and_allOnes

/-- The mask 0xF000 keeps the group. -/
theorem and_maskG (op : Word) : op &&& 0xF000 = digits (fieldG op) 0 0 0 := by
  rw [show (0xF000 : Word) = digits 0xF 0 0 0 from rfl, and_digits]
  simp only [BitVec.ofNat_eq_ofNat, digit_and_ones, BitVec.and_zero]

/-- The mask 0xF00F keeps the group and N. -/
theorem and_maskGN (op : Word) : op &&& 0xF00F = digits (fieldG op) 0 0 (fieldN op) := by
  rw [show (0xF00F : Word) = digits 0xF 0 0 0xF from rfl, and_digits]
  simp only [BitVec.ofNat_eq_ofNat, digit_and_ones, BitVec.and_zero]

/-- The mask 0xF0FF keeps the group and NN. -/
theorem and_maskGNN (op : Word) : op &&& 0xF0FF = digitsXNN (fieldG op) 0 (fieldNN op) := by
  rw [show (0xF0FF : Word) = digits 0xF 0 0xF 0xF from rfl, and_digits]
  simp only [BitVec.ofNat_eq_ofNat, digit_and_ones, BitVec.and_zero]
  apply BitVec.eq_of_toNat_eq
  rw [digits_toNat, digitsXNN_toNat, regField_toNat, fieldY_val, fieldN_toNat, fieldNN_toNat]
  simp only [BitVec.toNat_ofNat, Fin.val_zero]
  omega

/-- The mask 0xFFFF keeps the whole opcode. -/
theorem and_maskAll (op : Word) : op &&& 0xFFFF = op := BitVec.and_allOnes

/-- The encoding of an instruction fits the mask and match of its row (R75, R76). -/
theorem encode_and_mask (i : Instr) : encode i &&& (rowOf i).1 = (rowOf i).2 := by
  cases i
  case cls | ret => decide
  case jp | call | ldI | jpV0 => rw [rowOf, and_maskG, encode, digitsNNN_fieldG]; rfl
  case seImm | sneImm | ldImm | addImm | rnd => rw [rowOf, and_maskG, encode, digitsXNN_fieldG]; rfl
  case drw => rw [rowOf, and_maskG, encode, digits_fieldG]; rfl
  case seReg | ldReg | orReg | andReg | xorReg | addReg | sub | shr | subn | shl | sneReg =>
    rw [rowOf, and_maskGN, encode, digits_fieldG, digits_fieldN]; rfl
  case skp | sknp | ldVxDt | ldVxK | ldDt | ldSt | addI | ldF | ldB | ldMemVx | ldVxMem =>
    rw [rowOf, and_maskGNN, encode, digitsXNN_fieldG, digitsXNN_fieldNN]; rfl

/-- The group of an opcode that fits the mask 0xF000. -/
theorem fieldG_of_maskG {op w : Word} (h : op &&& 0xF000 = w) : (fieldG op).toNat = w.toNat / 4096 := by
  rw [← h, and_maskG, ← fieldG_toNat, digits_fieldG]

/-- The group and N of an opcode that fits the mask 0xF00F. -/
theorem fields_of_maskGN {op w : Word} (h : op &&& 0xF00F = w) :
    (fieldG op).toNat = w.toNat / 4096 ∧ (fieldN op).toNat = w.toNat % 16 := by
  rw [← h, and_maskGN, ← fieldG_toNat, ← fieldN_toNat, digits_fieldG, digits_fieldN]
  exact ⟨rfl, rfl⟩

/-- The group and NN of an opcode that fits the mask 0xF0FF. -/
theorem fields_of_maskGNN {op w : Word} (h : op &&& 0xF0FF = w) :
    (fieldG op).toNat = w.toNat / 4096 ∧ (fieldNN op).toNat = w.toNat % 256 := by
  rw [← h, and_maskGNN, ← fieldG_toNat, ← fieldNN_toNat, digitsXNN_fieldG, digitsXNN_fieldNN]
  exact ⟨rfl, rfl⟩

/-- An opcode that fits the mask and match of a row decodes to an instruction of that row (R75, R76). -/
theorem decode_of_mask {op : Word} {j : Instr} (h : op &&& (rowOf j).1 = (rowOf j).2) :
    ∃ i, decode op = .ok i ∧ rowOf i = rowOf j := by
  cases j
  case cls | ret =>
    rw [rowOf, and_maskAll] at h
    subst h
    exact ⟨_, rfl, rfl⟩
  case jp | call | ldI | jpV0 | seImm | sneImm | ldImm | addImm | rnd | drw =>
    have hg := fieldG_of_maskG h
    simp [decode, hg, rowOf]
  case seReg | ldReg | orReg | andReg | xorReg | addReg | sub | shr | subn | shl | sneReg =>
    obtain ⟨hg, hn⟩ := fields_of_maskGN h
    simp [decode, hg, decodeGroup5, decodeGroup8, decodeGroup9, hn, rowOf]
  case skp | sknp | ldVxDt | ldVxK | ldDt | ldSt | addI | ldF | ldB | ldMemVx | ldVxMem =>
    obtain ⟨hg, hnn⟩ := fields_of_maskGNN h
    simp [decode, hg, decodeGroupE, decodeGroupF, hnn, rowOf]

/-- Settles O3: a decoded opcode is an encoding, which fits its row; an opcode that fits a row decodes into it; and one
that fits two rows decodes to one instruction, whose row is both. -/
theorem decodeSelectsTheMatchingRow : Obligations.DecodeSelectsTheMatchingRow := by
  refine ⟨?fits, fun _ _ h => decode_of_mask h, ?disjoint⟩
  case fits =>
    intro op i h
    obtain ⟨-, rfl⟩ := decode_spells h
    exact encode_and_mask i
  case disjoint =>
    intro op i j hi hj
    obtain ⟨i', hdecode, hrow⟩ := decode_of_mask hi
    obtain ⟨j', hdecode', hrow'⟩ := decode_of_mask hj
    have : i' = j' := by simpa [hdecode] using hdecode'
    rw [← hrow, ← hrow', this]

/-! ### The opcodes outside the table -/

/-- The unimplemented opcodes of group 0 (R77). -/
theorem decodeGroup0_error (op : Word) : (∃ e, decodeGroup0 op = .error e) ↔ op ≠ 0x00E0 ∧ op ≠ 0x00EE := by
  simp only [ne_eq, ← BitVec.toNat_inj, decodeGroup0]
  split <;> simp_all

/-- The unimplemented opcodes of group 5 (R77). -/
theorem decodeGroup5_error (op : Word) : (∃ e, decodeGroup5 op = .error e) ↔ fieldN op ≠ 0x0 := by
  simp only [ne_eq, ← BitVec.toNat_inj, decodeGroup5]
  split <;> simp_all

/-- The unimplemented opcodes of group 8 (R77). -/
theorem decodeGroup8_error (op : Word) : (∃ e, decodeGroup8 op = .error e) ↔
    fieldN op = 0x8 ∨ fieldN op = 0x9 ∨ fieldN op = 0xA ∨ fieldN op = 0xB ∨ fieldN op = 0xC ∨ fieldN op = 0xD ∨
      fieldN op = 0xF := by
  have hlt := (fieldN op).isLt
  simp only [← BitVec.toNat_inj, decodeGroup8]
  split
  case h_10 =>
    simp only [imp_false] at *
    simp
    omega
  all_goals simp_all

/-- The unimplemented opcodes of group 9 (R77). -/
theorem decodeGroup9_error (op : Word) : (∃ e, decodeGroup9 op = .error e) ↔ fieldN op ≠ 0x0 := by
  simp only [ne_eq, ← BitVec.toNat_inj, decodeGroup9]
  split <;> simp_all

/-- The unimplemented opcodes of group E (R77). -/
theorem decodeGroupE_error (op : Word) :
    (∃ e, decodeGroupE op = .error e) ↔ fieldNN op ≠ 0x9E ∧ fieldNN op ≠ 0xA1 := by
  simp only [ne_eq, ← BitVec.toNat_inj, decodeGroupE]
  split <;> simp_all

/-- The unimplemented opcodes of group F (R77). -/
theorem decodeGroupF_error (op : Word) : (∃ e, decodeGroupF op = .error e) ↔
    fieldNN op ≠ 0x07 ∧ fieldNN op ≠ 0x0A ∧ fieldNN op ≠ 0x15 ∧ fieldNN op ≠ 0x18 ∧ fieldNN op ≠ 0x1E ∧
      fieldNN op ≠ 0x29 ∧ fieldNN op ≠ 0x33 ∧ fieldNN op ≠ 0x55 ∧ fieldNN op ≠ 0x65 := by
  simp only [ne_eq, ← BitVec.toNat_inj, decodeGroupF]
  split <;> simp_all

/-- A group is the digit of its number. -/
theorem fieldG_of_toNat {op : Word} {g : Nat} (h : (fieldG op).toNat = g) : fieldG op = BitVec.ofNat 4 g := by
  rw [← h, BitVec.ofNat_toNat, BitVec.setWidth_eq]

/-- Settles O4: a group other than 0, 5, 8, 9, E and F decodes whole, and these six reject what their own lemma says. -/
theorem unimplementedOpcodesByGroup : Obligations.UnimplementedOpcodesByGroup := by
  intro op
  unfold decode
  split
  case h_1 hg => simp [fieldG_of_toNat hg, decodeGroup0_error]
  case h_6 hg => simp [fieldG_of_toNat hg, decodeGroup5_error]
  case h_9 hg => simp [fieldG_of_toNat hg, decodeGroup8_error]
  case h_10 hg => simp [fieldG_of_toNat hg, decodeGroup9_error]
  case h_15 hg => simp [fieldG_of_toNat hg, decodeGroupE_error]
  case h_16 =>
    have hg : (fieldG op).toNat = 0xF := by
      have := (fieldG op).isLt
      simp only [imp_false] at *
      omega
    simp [fieldG_of_toNat hg, decodeGroupF_error]
  all_goals rename_i hg; simp [fieldG_of_toNat hg]

/-! ### Encodings as fields in place -/

/-- OR digit by digit. -/
theorem digits_or_digits (a b c d a' b' c' d' : BitVec 4) :
    digits a b c d ||| digits a' b' c' d' = digits (a ||| a') (b ||| b') (c ||| c') (d ||| d') := by
  have h : (a ++ b ++ c ++ d) ||| (a' ++ b' ++ c' ++ d') = (a ||| a') ++ (b ||| b') ++ (c ||| c') ++ (d ||| d') := by
    rw [BitVec.or_append, BitVec.or_append, BitVec.or_append]
  exact h

/-- X and an NN put into an opcode that has no X yet. -/
theorem digitsXNN_or (g : BitVec 4) (x : Reg) (nn nn' : Byte) :
    digitsXNN g 0 nn ||| digitsXNN 0 x nn' = digitsXNN g x (nn ||| nn') := by
  have h : (g ++ regField 0 ++ nn) ||| (0#4 ++ regField x ++ nn') =
      (g ||| 0#4) ++ (regField 0 ||| regField x) ++ (nn ||| nn') := by
    rw [BitVec.or_append, BitVec.or_append]
  rwa [BitVec.or_zero, show regField 0 ||| regField x = regField x from BitVec.zero_or] at h

/-- X shifted into place, in the format `xyn`. -/
theorem shifted_x (x : Reg) : BitVec.ofNat 16 x.val <<< 8 = digits 0 (regField x) 0 0 := by
  apply BitVec.eq_of_toNat_eq
  rw [digits_toNat, regField_toNat]
  simp [Nat.shiftLeft_eq]
  omega

/-- X shifted into place, in the format `xnn`. -/
theorem shifted_x_xnn (x : Reg) : BitVec.ofNat 16 x.val <<< 8 = digitsXNN 0 x 0 := by
  rw [shifted_x]
  apply BitVec.eq_of_toNat_eq
  simp [digits_toNat, digitsXNN_toNat, regField_toNat]

/-- Y shifted into place. -/
theorem shifted_y (y : Reg) : BitVec.ofNat 16 y.val <<< 4 = digits 0 0 (regField y) 0 := by
  apply BitVec.eq_of_toNat_eq
  rw [digits_toNat, regField_toNat]
  simp [Nat.shiftLeft_eq]
  omega

/-- N in place. -/
theorem shifted_n {n : Nat} (h : n < 16) : BitVec.ofNat 16 n = digits 0 0 0 (BitVec.ofNat 4 n) := by
  apply BitVec.eq_of_toNat_eq
  simp [digits_toNat]
  omega

/-- NN in place. -/
theorem setWidth_nn (nn : Byte) : nn.setWidth 16 = digitsXNN 0 0 nn := by
  apply BitVec.eq_of_toNat_eq
  simp [digitsXNN_toNat]
  omega

/-- NNN in place. -/
theorem setWidth_nnn (nnn : BitVec 12) : nnn.setWidth 16 = digitsNNN 0 nnn := by
  apply BitVec.eq_of_toNat_eq
  simp [digitsNNN_toNat]
  omega

/-- An opcode of the format `nnn` with its field shifted in (R72, R81). -/
theorem digitsNNN_eq_or (g : BitVec 4) (nnn : BitVec 12) :
    digitsNNN g nnn = digitsNNN g 0 ||| nnn.setWidth 16 := by
  rw [setWidth_nnn]
  show g ++ nnn = (g ++ 0#12) ||| (0#4 ++ nnn)
  rw [BitVec.or_append, BitVec.or_zero, BitVec.zero_or]

/-- An opcode of the format `xnn` with both fields shifted in (R72, R81). -/
theorem digitsXNN_eq_or (g : BitVec 4) (x : Reg) (nn : Byte) :
    digitsXNN g x nn = digitsXNN g 0 0 ||| (BitVec.ofNat 16 x.val <<< 8 ||| nn.setWidth 16) := by
  rw [shifted_x_xnn, setWidth_nn, BitVec.or_comm (digitsXNN 0 x 0), digitsXNN_or, digitsXNN_or]
  simp

/-- An opcode of the format `xnn` that fixes NN, with X shifted in (R72, R81). -/
theorem digitsXNN_eq_or_x (g : BitVec 4) (x : Reg) (nn : Byte) :
    digitsXNN g x nn = digitsXNN g 0 nn ||| BitVec.ofNat 16 x.val <<< 8 := by
  rw [shifted_x_xnn, digitsXNN_or]
  simp

/-- An opcode of the format `xyn` with its register fields shifted in (R72, R81). -/
theorem digits_eq_or (g n : BitVec 4) (x y : Reg) : digits g (regField x) (regField y) n =
    digits g 0 0 n ||| (BitVec.ofNat 16 x.val <<< 8 ||| BitVec.ofNat 16 y.val <<< 4) := by
  simp only [shifted_x, shifted_y, digits_or_digits, BitVec.ofNat_eq_ofNat, BitVec.or_zero, BitVec.zero_or]

/-- An opcode of the format `xyn` with all three fields shifted in (R72, R81). -/
theorem digits_eq_or_n (g : BitVec 4) (x y : Reg) {n : Nat} (h : n < 16) :
    digits g (regField x) (regField y) (BitVec.ofNat 4 n) =
      digits g 0 0 0 ||| (BitVec.ofNat 16 x.val <<< 8 ||| BitVec.ofNat 16 y.val <<< 4 ||| BitVec.ofNat 16 n) := by
  simp only [shifted_x, shifted_y, shifted_n h, digits_or_digits, BitVec.ofNat_eq_ofNat, BitVec.or_zero, BitVec.zero_or]

/-- Settles O5: the match is the encoding with its operand digits 0, and the fields fill those digits. -/
theorem encodingPutsFieldsInPlace : Obligations.EncodingPutsFieldsInPlace := by
  intro i h
  cases i
  case cls | ret => decide
  case jp nnn | call nnn | ldI nnn | jpV0 nnn => exact digitsNNN_eq_or _ nnn
  case seImm x nn | sneImm x nn | ldImm x nn | addImm x nn | rnd x nn => exact digitsXNN_eq_or _ x nn
  case drw x y n =>
    have hn : n < 16 := by simpa [Instr.wellFormed] using h
    exact digits_eq_or_n _ x y hn
  case seReg x y | ldReg x y | orReg x y | andReg x y | xorReg x y | addReg x y | sub x y | shr x y | subn x y | shl x y
      | sneReg x y => exact digits_eq_or _ _ x y
  case skp x | sknp x | ldVxDt x | ldVxK x | ldDt x | ldSt x | addI x | ldF x | ldB x | ldMemVx x | ldVxMem x =>
    exact digitsXNN_eq_or_x _ x _

/-- Settles O6: the decoder evaluated at each word. -/
theorem sampleWordsDecode : Obligations.SampleWordsDecode := by
  unfold Obligations.SampleWordsDecode
  decide

end Sys2Proof.Machine
end

section
/-!
PROOF. EXECUTE (40_cycle.md R94): when an instruction raises a fatal fault, and what one that completes can do to the
state, said once. The statements about every instruction follow from it.
-/

namespace Sys2Proof.Machine

/-! ### Fatal faults (60_exceptions.md R201, R205) -/

/-- A range has no fault exactly when it is empty or inside memory. -/
theorem rangeFault_eq_none_iff {a n : Nat} : rangeFault a n = none ↔ n = 0 ∨ a + n ≤ 4096 := by
  unfold rangeFault
  split
  · simp; omega
  · simp; omega

/-- A range inside memory has no fault. -/
theorem rangeFault_eq_none {a n : Nat} (h : a + n ≤ 4096) : rangeFault a n = none :=
  rangeFault_eq_none_iff.mpr (.inr h)

/-- The fault of a range names the first address past memory (R205). -/
theorem rangeFault_eq_some {a n bad : Nat} {c : HaltCause} (h : rangeFault a n = some (c, bad)) :
    ¬ (n = 0 ∨ a + n ≤ 4096) ∧ c = .memOutOfRange ∧ bad = max a 4096 := by
  unfold rangeFault at h
  split at h
  · cases h
    refine ⟨by omega, rfl, ?_⟩
    split <;> omega
  · cases h

/-- An access in range has its effect. -/
theorem afterRange_of_rangeFault_none {a n : Nat} (i : Instr) (s e : State) (h : rangeFault a n = none) :
    afterRange a n i s e = .next e := afterRange_ok a n i s e (rangeFault_eq_none_iff.mp h)

/-- An access out of range raises its fault. -/
theorem afterRange_of_rangeFault_some {a n bad : Nat} {c : HaltCause} (i : Instr) (s e : State)
    (h : rangeFault a n = some (c, bad)) : afterRange a n i s e = raise c bad i s := by
  obtain ⟨hout, rfl, rfl⟩ := rangeFault_eq_some h
  exact afterRange_bad a n i s e hout

/-- A key index without a fault passes its check. -/
theorem checkKey_of_keyFault_none {k : Byte} (h : keyFault k = none) :
    checkKey Config.oobPolicy k.toNat = none := by
  unfold keyFault at h
  split at h
  · cases h
  · rename_i hk
    rw [checkKey_halt, if_neg hk]

/-- A key index with a fault is reported by its check. -/
theorem checkKey_of_keyFault_some {k : Byte} {c : HaltCause} {bad : Nat} (h : keyFault k = some (c, bad)) :
    c = .keyOutOfRange ∧ checkKey Config.oobPolicy k.toNat = some bad := by
  unfold keyFault at h
  split at h
  · rename_i hk
    cases h
    exact ⟨rfl, by rw [checkKey_halt, if_pos hk]⟩
  · cases h

/-- A conditional skip is a write of PC (R96). -/
theorem skipIf_eq_setPc (c : Bool) (s : State) : skipIf c s = s.setPc (if c then s.pc + 2 else s.pc) := by
  cases c <;> rfl

/-- SKP with an index that names a key (R181). -/
theorem exec_skp_ok {x : Reg} {s : State} (h : keyFault (s.reg x) = none) :
    exec (.skp x) s = .next (skipIf (s.pressed (keyOf (s.reg x))) s) := by
  simp only [exec, execSkp, checkKey_of_keyFault_none h]

/-- SKNP with an index that names a key (R182). -/
theorem exec_sknp_ok {x : Reg} {s : State} (h : keyFault (s.reg x) = none) :
    exec (.sknp x) s = .next (skipIf (!s.pressed (keyOf (s.reg x))) s) := by
  simp only [exec, execSknp, checkKey_of_keyFault_none h]

/-- CALL below capacity (R112). -/
theorem exec_call_ok {nnn : BitVec 12} {s p : State} (h : s.push s.pc = some p) :
    exec (.call nnn) s = .next (p.setPc (addrNNN nnn)) := by
  simp only [exec, execCall, h]

/-- RET with an entry to pop (R110). -/
theorem exec_ret_ok {s p : State} {a : Word} (h : s.pop = some (a, p)) : exec .ret s = .next (p.setPc a) := by
  simp only [exec, execRet, h]

/-- RET with an empty stack (R110). -/
theorem exec_ret_underflow {s : State} (h : s.pop = none) :
    exec .ret s = .next (s.emitDiag .stackUnderflow (encode .ret)) := by
  simp only [exec, execRet, h]

/-- FX0A with a key pressed (R186). -/
theorem exec_ldVxK_pressed {x : Reg} {s : State} {k : Key} (h : lowestPressed s.key = some k) :
    exec (.ldVxK x) s = .next (s.setReg x (byteOf k.val)) := by
  simp only [exec, execLdVxK, h]

/-- FX0A with no key pressed (R186). -/
theorem exec_ldVxK_waits {x : Reg} {s : State} (h : lowestPressed s.key = none) :
    exec (.ldVxK x) s = .next (s.setPc s.pcFetch) := by
  simp only [exec, execLdVxK, h]

/-- The state a sprite leaves: the screen drawn on, and VF the collision (R101). -/
def spriteDrawn (x y : Reg) (n : Nat) (s : State) : State :=
  (s.setFb (drawSprite x y n s).1).setReg regF (flagByte (drawSprite x y n s).2)

/-- The state with a run of bytes stored at I (R163, R164). -/
def State.storeAtI (s : State) (bytes : List Byte) : State := s.setMem (s.mem.writeBytes (s.indexAddr 0) bytes)

/-- DXYN with its bytes in memory (R101). -/
theorem exec_drw_ok {x y : Reg} {n : Nat} {s : State} (h : rangeFault s.i.toNat n = none) :
    exec (.drw x y n) s = .next (spriteDrawn x y n s) := afterRange_of_rangeFault_none _ s _ h

/-- FX33 with its addresses in memory (R163). -/
theorem exec_ldB_ok {x : Reg} {s : State} (h : rangeFault s.i.toNat 3 = none) :
    exec (.ldB x) s = .next (s.storeAtI (decimalDigits (s.reg x))) :=
  afterRange_of_rangeFault_none _ s _ h

/-- FX55 with its addresses in memory (R164). -/
theorem exec_ldMemVx_ok {x : Reg} {s : State} (h : rangeFault s.i.toNat (x.val + 1) = none) :
    exec (.ldMemVx x) s = .next (s.storeAtI (s.regsUpTo x)) :=
  afterRange_of_rangeFault_none _ s _ h

/-- FX65 with its addresses in memory (R165). -/
theorem exec_ldVxMem_ok {x : Reg} {s : State} (h : rangeFault s.i.toNat (x.val + 1) = none) :
    exec (.ldVxMem x) s = .next (s.setRegs (s.regsFromMem (s.indexAddr 0) x)) :=
  afterRange_of_rangeFault_none _ s _ h

/-- An instruction raises the fault `faultOf` names. -/
theorem exec_of_fault {i : Instr} {s : State} {c : HaltCause} {a : Nat} (h : faultOf i s = some (c, a)) :
    exec i s = raise c a i s := by
  cases i
  case call nnn =>
    simp only [faultOf] at h
    split at h
    · rename_i hsp
      cases h
      have hfull : s.push s.pc = none := State.push_full s s.pc (by omega)
      simp only [exec, execCall, hfull, hsp]
    · cases h
  case drw x y n => exact afterRange_of_rangeFault_some _ s _ h
  case ldB x => exact afterRange_of_rangeFault_some _ s _ h
  case ldMemVx x => exact afterRange_of_rangeFault_some _ s _ h
  case ldVxMem x => exact afterRange_of_rangeFault_some _ s _ h
  case skp x =>
    obtain ⟨rfl, hbad⟩ := checkKey_of_keyFault_some (k := s.reg x) h
    simp only [exec, execSkp, hbad]
  case sknp x =>
    obtain ⟨rfl, hbad⟩ := checkKey_of_keyFault_some (k := s.reg x) h
    simp only [exec, execSknp, hbad]
  all_goals cases h

/-! ### What an instruction that completes can do -/

/-- The shapes of the next state of an instruction that completes, each with the instructions that have it. -/
inductive Completes (i : Instr) (s : State) : State → Prop where
  /-- Registers alone are written. -/
  | regs (w : Vector Byte 16) (kept : ∀ r, r ∉ regsWritten i → w[r] = s.reg r) : Completes i s (s.setRegs w)
  /-- A random byte is drawn and registers are written. -/
  | random (w : Vector Byte 16) (kept : ∀ r, r ∉ regsWritten i → w[r] = s.reg r)
    (writer : ∃ x nn, i = .rnd x nn) : Completes i s (s.drawn.setRegs w)
  /-- The screen and registers are written. -/
  | screen (fb : Framebuffer) (w : Vector Byte 16) (kept : ∀ r, r ∉ regsWritten i → w[r] = s.reg r)
    (writer : i = .cls ∨ ∃ x y n, i = .drw x y n) : Completes i s ((s.setFb fb).setRegs w)
  /-- PC alone is written. -/
  | jump (a : Word) (writer : keepsPc i = false) : Completes i s (s.setPc a)
  /-- I alone is written. -/
  | index (a : Word) (writer : (∃ nnn, i = .ldI nnn) ∨ (∃ x, i = .addI x) ∨ ∃ x, i = .ldF x) : Completes i s (s.setI a)
  /-- DT alone is written. -/
  | delay (b : Byte) (writer : ∃ x, i = .ldDt x) : Completes i s (s.setDt b)
  /-- ST alone is written. -/
  | sound (b : Byte) (writer : ∃ x, i = .ldSt x) : Completes i s (s.setSt b)
  /-- Memory alone is written. -/
  | stored (a : Nat) (bytes : List Byte) (writer : (∃ x, i = .ldB x) ∨ ∃ x, i = .ldMemVx x) :
    Completes i s (s.setMem (s.mem.writeBytes a bytes))
  /-- An entry is pushed and PC written. -/
  | called (stack : Vector Word 12) (sp : Fin 13) (a : Word) (writer : ∃ nnn, i = .call nnn) :
    Completes i s { s with stack := stack, sp := sp, pc := a }
  /-- An entry is popped into PC. -/
  | returned (sp : Fin 13) (a : Word) (writer : i = .ret) : Completes i s { s with sp := sp, pc := a }
  /-- The stack underflow is reported. -/
  | underflow (op : Word) (writer : i = .ret) : Completes i s (s.emitDiag .stackUnderflow op)

/-- A write of a listed register completes. -/
theorem Completes.setReg {i : Instr} (s : State) {x : Reg} (b : Byte) (hx : x ∈ regsWritten i) :
    Completes i s (s.setReg x b) := by
  refine .regs (s.setReg x b).v fun r hr => ?_
  have : r ≠ x := fun h => hr (h ▸ hx)
  exact (State.setReg_reg s x b r).trans (if_neg this)

/-- A flag-setting operation with VX and VF listed completes. -/
theorem Completes.flagOp {i : Instr} (s : State) (flag : Byte → Byte → Bool) (result : Byte → Byte → Byte) {x : Reg}
    (y : Reg) (hx : x ∈ regsWritten i) (hF : regF ∈ regsWritten i) :
    Completes i s (flagOp Config.flagOperandMode flag result x y s) := by
  refine .regs (Machine.flagOp .latched flag result x y s).v fun r hr => ?_
  have hrx : r ≠ x := fun h => hr (h ▸ hx)
  have hrF : r ≠ regF := fun h => hr (h ▸ hF)
  exact (flagOp_latched_reg flag result x y r s).trans (by rw [if_neg hrx, if_neg hrF])

/-- A conditional skip completes. -/
theorem Completes.skipIf {i : Instr} (s : State) (c : Bool) (hi : keepsPc i = false) :
    Completes i s (skipIf c s) := by
  rw [skipIf_eq_setPc]
  exact .jump _ hi

/-- V0..VX by their indexes. -/
theorem mem_regsThrough {r x : Reg} : r ∈ regsThrough x ↔ r ≤ x := by
  simp [regsThrough]

/-- A register read from the file that FX65 leaves (R165). -/
theorem regsFromMem_getElem (s : State) (a : Nat) (x r : Reg) :
    (s.regsFromMem a x)[r] = if r ≤ x then s.mem.read (a + r.val) else s.reg r := by
  simp [State.regsFromMem]

/-- An instruction that raises no fault completes (R201). -/
theorem exec_completes {i : Instr} {s : State} (h : faultOf i s = none) :
    ∃ t, exec i s = .next t ∧ Completes i s t := by
  cases i
  case cls => exact ⟨_, rfl, .screen fbClear s.v (fun _ _ => rfl) (.inl rfl)⟩
  case ret =>
    by_cases hsp : s.sp.val = 0
    · exact ⟨_, exec_ret_underflow (s.pop_empty hsp), .underflow _ rfl⟩
    · have hpop := s.pop_ok (by omega)
      exact ⟨_, exec_ret_ok hpop, .returned _ _ rfl⟩
  case jp nnn => exact ⟨_, rfl, .jump _ rfl⟩
  case jpV0 nnn => exact ⟨_, rfl, .jump _ rfl⟩
  case call nnn =>
    have hsp : s.sp.val ≠ 12 := by simpa [faultOf] using h
    have hpush := s.push_ok s.pc (by omega)
    exact ⟨_, exec_call_ok hpush, .called _ _ _ ⟨nnn, rfl⟩⟩
  case seImm | sneImm | seReg | sneReg => exact ⟨_, rfl, .skipIf s _ rfl⟩
  case skp x => exact ⟨_, exec_skp_ok h, .skipIf s _ rfl⟩
  case sknp x => exact ⟨_, exec_sknp_ok h, .skipIf s _ rfl⟩
  case ldImm | addImm | ldReg | orReg | andReg | xorReg | ldVxDt =>
    exact ⟨_, rfl, .setReg s _ (List.mem_singleton_self _)⟩
  case addReg | sub | shr | subn | shl =>
    exact ⟨_, rfl, .flagOp s _ _ _ (by simp [regsWritten]) (by simp [regsWritten])⟩
  case rnd x nn =>
    refine ⟨_, rfl, .random (s.setReg x (s.nextRand &&& nn)).v (fun r hr => ?_) ⟨x, nn, rfl⟩⟩
    exact (State.setReg_reg s x _ r).trans (if_neg (List.ne_of_not_mem_cons hr))
  case drw x y n =>
    refine ⟨_, exec_drw_ok h, .screen _ (s.setReg regF _).v (fun r hr => ?_) (.inr ⟨x, y, n, rfl⟩)⟩
    exact (State.setReg_reg s regF _ r).trans (if_neg (List.ne_of_not_mem_cons hr))
  case ldVxK x =>
    cases hk : lowestPressed s.key with
    | none => exact ⟨_, exec_ldVxK_waits hk, .jump _ rfl⟩
    | some k => exact ⟨_, exec_ldVxK_pressed hk, .setReg s _ (List.mem_singleton_self _)⟩
  case ldI nnn => exact ⟨_, rfl, .index _ (.inl ⟨nnn, rfl⟩)⟩
  case addI x => exact ⟨_, rfl, .index _ (.inr (.inl ⟨x, rfl⟩))⟩
  case ldF x => exact ⟨_, rfl, .index _ (.inr (.inr ⟨x, rfl⟩))⟩
  case ldDt x => exact ⟨_, rfl, .delay _ ⟨x, rfl⟩⟩
  case ldSt x => exact ⟨_, rfl, .sound _ ⟨x, rfl⟩⟩
  case ldB x => exact ⟨_, exec_ldB_ok h, .stored _ _ (.inl ⟨x, rfl⟩)⟩
  case ldMemVx x => exact ⟨_, exec_ldMemVx_ok h, .stored _ _ (.inr ⟨x, rfl⟩)⟩
  case ldVxMem x =>
    refine ⟨_, exec_ldVxMem_ok h, .regs (s.regsFromMem _ x) fun r hr => ?_⟩
    rw [regsFromMem_getElem, if_neg (fun hle => hr (mem_regsThrough.mpr hle))]

/-- Whatever the instruction, its next state is HALTED by its fault, or completes it. -/
theorem exec_cases {i : Instr} {s t : State} (h : exec i s = .next t) :
    (∃ c a, faultOf i s = some (c, a) ∧ t = s.enterHalted ⟨c, some s.pcFetch, some (encode i), some a⟩) ∨
    (faultOf i s = none ∧ Completes i s t) := by
  cases hf : faultOf i s with
  | some f =>
    obtain ⟨c, a⟩ := f
    rw [exec_of_fault hf, raise, Host.Outcome.next.injEq] at h
    exact .inl ⟨c, a, rfl, h.symm⟩
  | none =>
    obtain ⟨t', ht', hc⟩ := exec_completes hf
    rw [ht', Host.Outcome.next.injEq] at h
    exact .inr ⟨rfl, h ▸ hc⟩

/-! ### The statements about every instruction -/

/-- An instruction that completes leaves CTRL, HALT, the latch, the tick position and the requests (R24 to R33). -/
theorem Completes.keeps {i : Instr} {s t : State} (h : Completes i s t) :
    t.ctrl = s.ctrl ∧ t.halt = s.halt ∧ t.key = s.key ∧ t.phase = s.phase ∧ t.inputs = s.inputs := by
  cases h <;> exact ⟨rfl, rfl, rfl, rfl, rfl⟩

/-- An instruction that completes writes no register outside its column of R22. -/
theorem Completes.reg {i : Instr} {s t : State} {r : Reg} (h : Completes i s t) (hr : r ∉ regsWritten i) :
    t.reg r = s.reg r := by
  cases h with
  | regs w kept | random w kept | screen fb w kept => exact kept r hr
  | _ => rfl

/-- An instruction that completes and is no transfer, skip or wait leaves PC (R95). -/
theorem Completes.pc {i : Instr} {s t : State} (h : Completes i s t) (hi : keepsPc i = true) : t.pc = s.pc := by
  cases h with
  | jump a writer => simp [writer] at hi
  | called stack sp a writer =>
    obtain ⟨nnn, rfl⟩ := writer
    cases hi
  | returned sp a writer =>
    subst writer
    cases hi
  | _ => rfl

/-- The instructions that R95 leaves out: transfers, skips and the key wait. -/
theorem transfer_of_keepsPc_false {i : Instr} (h : keepsPc i = false) :
    i = .ret ∨ (∃ nnn, i = .jp nnn) ∨ (∃ nnn, i = .call nnn) ∨ (∃ x nn, i = .seImm x nn) ∨
      (∃ x nn, i = .sneImm x nn) ∨ (∃ x y, i = .seReg x y) ∨ (∃ x y, i = .sneReg x y) ∨ (∃ nnn, i = .jpV0 nnn) ∨
      (∃ x, i = .skp x) ∨ (∃ x, i = .sknp x) ∨ ∃ x, i = .ldVxK x := by
  cases i <;> simp [keepsPc] at h ⊢

/-- Settles O28: a fault writes no register, and an instruction that completes only those of its column. -/
theorem onlyListedRegistersAreWritten : Obligations.OnlyListedRegistersAreWritten := by
  intro i s t r h hr
  obtain ⟨c, a, -, rfl⟩ | ⟨-, hc⟩ := exec_cases h
  · rfl
  · exact hc.reg hr

/-- Settles O31: a fault leaves PC, and so does an instruction of this kind that completes. -/
theorem otherInstructionsKeepTheAdvancedPc : Obligations.OtherInstructionsKeepTheAdvancedPc := by
  intro i s t hi h
  obtain ⟨c, a, -, rfl⟩ | ⟨-, hc⟩ := exec_cases h
  · rfl
  · exact hc.pc hi

/-- Settles O32: `faultOf` decides between the entry into HALTED and completion. -/
theorem fatalFaultsArePreciseAndRecorded : Obligations.FatalFaultsArePreciseAndRecorded := by
  intro i s
  cases hf : faultOf i s with
  | some f => exact exec_of_fault hf
  | none =>
    obtain ⟨t, ht, hc⟩ := exec_completes hf
    obtain ⟨hctrl, hhalt, -⟩ := hc.keeps
    exact ⟨t, ht, hctrl, hhalt⟩

/-- Settles O30: a fault writes CTRL and HALT alone, and each shape of a completed instruction has its writers. -/
theorem specialStateHasNamedWriters : Obligations.SpecialStateHasNamedWriters := by
  intro i s t h
  obtain ⟨c, a, hf, rfl⟩ | ⟨-, hc⟩ := exec_cases h
  · simp [hf]
  · have hpc : t.pc ≠ s.pc → keepsPc i = false := fun hne => by
      by_contra hi
      exact hne (hc.pc (by simpa using hi))
    refine ⟨fun hne => transfer_of_keepsPc_false (hpc hne), ?_⟩
    clear hpc
    cases hc <;> simp [*]

end Sys2Proof.Machine
end

section
/-!
PROOF. A register outside its columns of R22 has no influence on an instruction (10_state.md section 1): a write of it
commutes with EXECUTE, and is lost where EXECUTE overwrites it.
-/

namespace Sys2Proof.Machine

/-! ### A register write before the reads and writes of an instruction -/

/-- Writes of two registers commute. -/
theorem State.setReg_comm (s : State) {r x : Reg} (b c : Byte) (h : x ≠ r) :
    (s.setReg r b).setReg x c = (s.setReg x c).setReg r b := by
  simp only [State.setReg]
  rw [Vector.set_comm]
  exact fun hv => h (Fin.ext hv.symm)

/-- A register of a list reads as before when one outside it is written. -/
theorem State.setReg_reg_of_not_mem (s : State) {r x : Reg} {rs : List Reg} (b : Byte) (hr : r ∉ rs) (hx : x ∈ rs) :
    (s.setReg r b).reg x = s.reg x := by
  rw [State.setReg_reg, if_neg]
  rintro rfl
  exact hr hx

/-- Whether an instruction faults does not depend on a register it does not read. -/
theorem faultOf_setReg {i : Instr} (s : State) {r : Reg} (b : Byte) (hr : r ∉ regsRead i) :
    faultOf i (s.setReg r b) = faultOf i s := by
  cases i
  case skp | sknp => simp only [faultOf, s.setReg_reg_of_not_mem b hr (List.mem_singleton_self _)]
  all_goals rfl

/-- The stored registers do not depend on a register above VX (R164). -/
theorem State.regsUpTo_setReg (s : State) {r x : Reg} (b : Byte) (hr : x < r) :
    (s.setReg r b).regsUpTo x = s.regsUpTo x := by
  simp only [State.regsUpTo, State.setReg_v, Vector.toList_set]
  exact List.take_set_of_le (Nat.succ_le_of_lt hr)

/-- FX65 keeps a register above VX, so a write of it may come before or after (R165). -/
theorem State.regsFromMem_setReg_above (s : State) (a : Nat) {r x : Reg} (b : Byte) (hr : x < r) :
    (s.setReg r b).regsFromMem a x = (s.regsFromMem a x).set r b := by
  apply State.v_ext
  intro q
  have hset : ((s.regsFromMem a x).set r b)[q] = if q = r then b else (s.regsFromMem a x)[q] :=
    (s.setRegs (s.regsFromMem a x)).setReg_reg r b q
  rw [hset, regsFromMem_getElem, regsFromMem_getElem, State.setReg_mem, State.setReg_reg]
  split_ifs with hqx hqr
  · exact absurd (hqr ▸ hqx) (not_le.mpr hr)
  all_goals rfl

/-- FX65 overwrites a register up to VX (R165). -/
theorem State.regsFromMem_setReg_through (s : State) (a : Nat) {r x : Reg} (b : Byte) (hr : r ≤ x) :
    (s.setReg r b).regsFromMem a x = s.regsFromMem a x := by
  apply State.v_ext
  intro q
  rw [regsFromMem_getElem, regsFromMem_getElem, State.setReg_mem, State.setReg_reg]
  split_ifs with hqx hqr
  · rfl
  · exact absurd (hqr ▸ hr) hqx
  · rfl

/-- A sprite depends on no register but VX and VY (R101). -/
theorem drawSprite_setReg {x y r : Reg} (n : Nat) {s : State} (b : Byte) (hx : (s.setReg r b).reg x = s.reg x)
    (hy : (s.setReg r b).reg y = s.reg y) : drawSprite x y n (s.setReg r b) = drawSprite x y n s := by
  simp only [drawSprite, hx, hy, State.setReg_mem, State.setReg_indexAddr, State.setReg_fb]

/-- An instruction that faults keeps every register. -/
theorem exec_setReg_of_fault {i : Instr} {s : State} {r : Reg} (b : Byte) (hr : r ∉ regsRead i)
    (h : faultOf i s ≠ none) : exec i (s.setReg r b) = mapNext (fun t => t.setReg r b) (exec i s) := by
  obtain ⟨⟨c, a⟩, hf⟩ := Option.ne_none_iff_exists'.mp h
  have hf' : faultOf i (s.setReg r b) = some (c, a) := by rw [faultOf_setReg s b hr, hf]
  rw [exec_of_fault hf, exec_of_fault hf']
  rfl

/-- A write of a register that an instruction neither reads nor writes commutes with it (R22). -/
theorem exec_setReg_of_unlisted {i : Instr} {s : State} {r : Reg} (b : Byte) (hr : r ∉ regsRead i)
    (hw : r ∉ regsWritten i) (h : faultOf i s = none) :
    exec i (s.setReg r b) = mapNext (fun t => t.setReg r b) (exec i s) := by
  have h' : faultOf i (s.setReg r b) = none := by rw [faultOf_setReg s b hr, h]
  have hread : ∀ x ∈ regsRead i, (s.setReg r b).reg x = s.reg x := fun x hx => s.setReg_reg_of_not_mem b hr hx
  have hwrite : ∀ x ∈ regsWritten i, x ≠ r := fun x hx hxr => hw (hxr ▸ hx)
  cases i
  case cls | jp | ldI => rfl
  case ret =>
    by_cases hsp : s.sp.val = 0
    · rw [exec_ret_underflow (s.pop_empty hsp), exec_ret_underflow ((s.setReg r b).pop_empty hsp)]
      rfl
    · have hpos : 0 < s.sp.val := by omega
      rw [exec_ret_ok (s.pop_ok hpos), exec_ret_ok ((s.setReg r b).pop_ok hpos)]
      rfl
  case call nnn =>
    have hsp : s.sp.val < 12 := by
      have : s.sp.val ≠ 12 := by simpa [faultOf] using h
      omega
    rw [exec_call_ok (s.push_ok s.pc hsp), exec_call_ok ((s.setReg r b).push_ok s.pc hsp)]
    rfl
  case seImm | sneImm | seReg | sneReg =>
    simp only [regsRead, List.mem_cons, List.not_mem_nil, or_false, forall_eq_or_imp, forall_eq] at hread
    simp only [exec, execSeImm, execSneImm, execSeReg, execSneReg, hread, skipIf_eq_setPc]
    rfl
  case skp x =>
    rw [exec_skp_ok h, exec_skp_ok h', hread x (List.mem_singleton_self x), skipIf_eq_setPc, skipIf_eq_setPc]
    rfl
  case sknp x =>
    rw [exec_sknp_ok h, exec_sknp_ok h', hread x (List.mem_singleton_self x), skipIf_eq_setPc, skipIf_eq_setPc]
    rfl
  case addI | ldF | ldDt | ldSt | jpV0 =>
    simp only [regsRead, List.mem_cons, List.not_mem_nil, or_false, forall_eq] at hread
    simp only [exec, execAddI, execLdF, execLdDt, execLdSt, execJpV0, targetV0, hread]
    rfl
  case ldImm x _ | ldVxDt x =>
    exact congrArg Host.Outcome.next (s.setReg_comm b _ (hwrite x (List.mem_singleton_self x)))
  case rnd x _ =>
    exact congrArg Host.Outcome.next (s.drawn.setReg_comm b _ (hwrite x (List.mem_singleton_self x)))
  case addImm x _ | ldReg x _ | orReg x _ | andReg x _ | xorReg x _ =>
    simp only [regsRead, List.mem_cons, List.not_mem_nil, or_false, forall_eq_or_imp, forall_eq] at hread
    simp only [exec, execAddImm, execLdReg, execOrReg, execAndReg, execXorReg, hread]
    exact congrArg Host.Outcome.next (s.setReg_comm b _ (hwrite x (List.mem_singleton_self x)))
  case addReg x y | sub x y | shr x _ | subn x y | shl x _ =>
    simp only [regsRead, List.mem_cons, List.not_mem_nil, or_false, forall_eq_or_imp, forall_eq] at hread
    simp only [exec, execAddReg, execSub, execShr, execSubn, execShl, flagOp, hread]
    rw [s.setReg_comm b _ (hwrite regF (by simp [regsWritten])),
      State.setReg_comm _ b _ (hwrite x (by simp [regsWritten]))]
    rfl
  case drw x y n =>
    simp only [regsRead, List.mem_cons, List.not_mem_nil, or_false, forall_eq_or_imp, forall_eq] at hread
    have hF := hwrite regF (List.mem_singleton_self regF)
    rw [exec_drw_ok h, exec_drw_ok h', spriteDrawn, drawSprite_setReg n b hread.1 hread.2]
    exact congrArg Host.Outcome.next ((s.setFb (drawSprite x y n s).1).setReg_comm b _ hF)
  case ldVxK x =>
    cases hk : lowestPressed s.key with
    | none =>
      rw [exec_ldVxK_waits hk, exec_ldVxK_waits (s := s.setReg r b) hk]
      rfl
    | some k =>
      rw [exec_ldVxK_pressed hk, exec_ldVxK_pressed (s := s.setReg r b) hk]
      exact congrArg Host.Outcome.next (s.setReg_comm b _ (hwrite x (List.mem_singleton_self x)))
  case ldB x =>
    rw [exec_ldB_ok h, exec_ldB_ok h',
      hread x (List.mem_singleton_self x)]
    rfl
  case ldMemVx x =>
    have hx : x < r := not_le.mp fun hle => hr (mem_regsThrough.mpr hle)
    rw [exec_ldMemVx_ok h, exec_ldMemVx_ok h', s.regsUpTo_setReg b hx]
    rfl
  case ldVxMem x =>
    have hx : x < r := not_le.mp fun hle => hw (mem_regsThrough.mpr hle)
    rw [exec_ldVxMem_ok h, exec_ldVxMem_ok h']
    rw [s.regsFromMem_setReg_above _ b hx]
    rfl

/-- The old value of a register that an instruction writes and does not read is gone (R22). -/
theorem exec_setReg_of_overwritten {i : Instr} {s : State} {r : Reg} (b : Byte) (hr : r ∉ regsRead i)
    (hw : r ∈ regsWritten i) (h : faultOf i s = none) (hkey : ∀ x, i = .ldVxK x → ∃ k, s.pressed k = true) :
    exec i (s.setReg r b) = exec i s := by
  have h' : faultOf i (s.setReg r b) = none := by rw [faultOf_setReg s b hr, h]
  have hread : ∀ x ∈ regsRead i, (s.setReg r b).reg x = s.reg x := fun x hx => s.setReg_reg_of_not_mem b hr hx
  cases i
  case ldImm x _ | ldVxDt x =>
    obtain rfl := List.mem_singleton.mp hw
    exact congrArg Host.Outcome.next (s.setReg_setReg r b _)
  case rnd x _ =>
    obtain rfl := List.mem_singleton.mp hw
    exact congrArg Host.Outcome.next (s.drawn.setReg_setReg r b _)
  case ldReg x y =>
    obtain rfl := List.mem_singleton.mp hw
    simp only [exec, execLdReg, hread y (List.mem_singleton_self y), State.setReg_setReg]
  case addImm | orReg | andReg | xorReg => exact absurd hw (by simp_all [regsRead, regsWritten])
  case addReg x y | sub x y | shr x _ | subn x y | shl x _ =>
    obtain rfl : r = regF := by
      simp only [regsRead, regsWritten, List.mem_cons, List.not_mem_nil, or_false] at hr hw
      tauto
    simp only [regsRead, List.mem_cons, List.not_mem_nil, or_false, forall_eq_or_imp, forall_eq] at hread
    simp only [exec, execAddReg, execSub, execShr, execSubn, execShl, flagOp, hread, State.setReg_setReg]
  case drw x y n =>
    obtain rfl := List.mem_singleton.mp hw
    simp only [regsRead, List.mem_cons, List.not_mem_nil, or_false, forall_eq_or_imp, forall_eq] at hread
    rw [exec_drw_ok h, exec_drw_ok h', spriteDrawn, drawSprite_setReg n b hread.1 hread.2]
    exact congrArg Host.Outcome.next ((s.setFb (drawSprite x y n s).1).setReg_setReg regF b _)
  case ldVxK x =>
    obtain rfl := List.mem_singleton.mp hw
    obtain ⟨k, hk⟩ := hkey r rfl
    cases hlow : lowestPressed s.key with
    | none =>
      have := (lowestPressed_none s.key).mp hlow k
      exact absurd (hk.symm.trans this) (by decide)
    | some k =>
      rw [exec_ldVxK_pressed hlow, exec_ldVxK_pressed (s := s.setReg r b) hlow, State.setReg_setReg]
  case ldVxMem x =>
    rw [exec_ldVxMem_ok h, exec_ldVxMem_ok h']
    rw [s.regsFromMem_setReg_through _ b (mem_regsThrough.mp hw)]
    rfl
  all_goals cases hw

/-- Settles O29: a register outside both columns is carried along; one that is overwritten is lost; and a fault or a
wait carries every register along. -/
theorem unlistedRegistersHaveNoInfluence : Obligations.UnlistedRegistersHaveNoInfluence := by
  refine ⟨?untouched, ?overwritten, ?kept⟩
  case untouched =>
    intro i s r b hr hw
    by_cases hf : faultOf i s = none
    · exact exec_setReg_of_unlisted b hr hw hf
    · exact exec_setReg_of_fault b hr hf
  case overwritten => exact fun i s r b hr hw hf hkey => exec_setReg_of_overwritten b hr hw hf hkey
  case kept =>
    rintro i s r b hr - (hf | ⟨x, rfl, hkey⟩)
    · exact exec_setReg_of_fault b hr hf
    · have hwait := (lowestPressed_none s.key).mpr hkey
      rw [exec_ldVxK_waits hwait, exec_ldVxK_waits (s := s.setReg r b) hwait]
      rfl

end Sys2Proof.Machine
end

section
/-!
PROOF. The cycle (40_cycle.md R90 to R99): fetch and dispatch, and all that a cycle can do, said once.
-/

namespace Sys2Proof.Machine

/-- The opcode at PC, the byte at the lower address high (20_memory.md R53). -/
def State.opcode (s : State) : Word := wordOfBytes (s.readByte s.pc.toNat) (s.readByte (s.pc.toNat + 1))

/-- An opcode that decodes executes as its instruction (R94). -/
theorem execOpcode_of_decode_ok {op : Word} {i : Instr} (s : State) (h : decode op = .ok i) :
    execOpcode op s = exec i s := by
  simp only [execOpcode, h]

/-- The step of a cycle whose opcode decodes (R90 to R94). -/
theorem step_decoded {s : State} {k : Nat} {i : Instr} (hctrl : s.ctrl = .running) (hphase : s.phase = .execute k)
    (hpc : s.pc.toNat + 1 < 4096) (hdecode : decode s.opcode = .ok i) :
    step s = exec i (s.setPhase (cyclesLeft k)).advance := by
  rw [step_fetched hctrl hphase hpc]
  exact execOpcode_of_decode_ok _ hdecode

/-- The step of a cycle whose opcode does not decode (R97). -/
theorem step_unimplemented {s : State} {k : Nat} {e : DecodeReject} (hctrl : s.ctrl = .running)
    (hphase : s.phase = .execute k) (hpc : s.pc.toNat + 1 < 4096) (hdecode : decode s.opcode = .error e) :
    step s = .next ((s.setPhase (cyclesLeft k)).advance.emitDiag .unimplementedOpcode s.opcode) := by
  rw [step_fetched hctrl hphase hpc]
  exact execOpcode_of_decode_error _ hdecode

/-- The step of a cycle whose fetch leaves memory (R91). -/
theorem step_fetch_fault {s : State} {k : Nat} (hctrl : s.ctrl = .running) (hphase : s.phase = .execute k)
    (hpc : ¬ s.pc.toNat + 1 < 4096) : step s = .next ((s.setPhase (cyclesLeft k)).enterHalted
      ⟨.memOutOfRange, some s.pc, none, some (max s.pc.toNat 4096)⟩) := by
  rw [step_running_execute hctrl hphase]
  simp only [cycle, State.setPhase_mem, State.setPhase_pc, fetch16_bad _ _ hpc, raiseFetch]

/-- All that the step of a cycle can do: halt at the fetch, report an opcode outside the table, halt by the fault of
the fetched instruction, or complete it (R99). -/
theorem step_cycle_cases {s t : State} {k : Nat} (hctrl : s.ctrl = .running) (hphase : s.phase = .execute k)
    (h : step s = .next t) :
    (∃ a, t = (s.setPhase (cyclesLeft k)).enterHalted ⟨.memOutOfRange, some s.pc, none, some a⟩) ∨
    (t = (s.setPhase (cyclesLeft k)).advance.emitDiag .unimplementedOpcode s.opcode) ∨
    (∃ i c a, faultOf i (s.setPhase (cyclesLeft k)).advance = some (c, a) ∧
      t = (s.setPhase (cyclesLeft k)).advance.enterHalted ⟨c, some s.pc, some (encode i), some a⟩) ∨
    ∃ i, decode s.opcode = .ok i ∧ Completes i (s.setPhase (cyclesLeft k)).advance t := by
  by_cases hpc : s.pc.toNat + 1 < 4096
  · cases hdecode : decode s.opcode with
    | error e =>
      rw [step_unimplemented hctrl hphase hpc hdecode, Host.Outcome.next.injEq] at h
      exact .inr (.inl h.symm)
    | ok i =>
      rw [step_decoded hctrl hphase hpc hdecode] at h
      obtain ⟨c, a, hf, rfl⟩ | ⟨-, hc⟩ := exec_cases h
      · exact .inr (.inr (.inl ⟨i, c, a, hf, by simp⟩))
      · exact .inr (.inr (.inr ⟨i, rfl, hc⟩))
  · rw [step_fetch_fault hctrl hphase hpc, Host.Outcome.next.injEq] at h
    exact .inl ⟨_, h.symm⟩

/-- Settles O7: the advanced state of a cycle, with its two writes written out. -/
theorem stepRunsTheDecodedInstruction : Obligations.StepRunsTheDecodedInstruction :=
  fun _ _ _ hctrl hphase hpc hdecode => step_decoded hctrl hphase hpc hdecode

/-- Settles O9: the fetch fault halts with the tick position written and PC not. -/
theorem fetchOutOfRangeHalts : Obligations.FetchOutOfRangeHalts := by
  intro s k hctrl hphase hpc
  refine ⟨_, step_fetch_fault hctrl hphase (by omega), rfl, ?record, rfl, fun _ => rfl, fun _ => rfl⟩
  case record =>
    have haddr : max s.pc.toNat 4096 = if 4096 ≤ s.pc.toNat then s.pc.toNat else 4096 := by
      split <;> omega
    rw [State.enterHalted_halt, haddr]

/-- Settles O10: under WRAP no range check reports, and both bytes are read modulo the size of memory. -/
theorem fetchWrapsUnderTheOtherPolicy : Obligations.FetchWrapsUnderTheOtherPolicy := by
  intro m pc
  simp only [fetch16, checkRange_wrap]
  rfl

end Sys2Proof.Machine
end

section
/-!
PROOF. The controller (60_exceptions.md R220 to R229): what one step is by its position in the tick, and what a cycle
and a drain keep.
-/

namespace Sys2Proof.Machine

/-! ### One step -/

/-- HALTED answers itself (R229). -/
theorem step_halted {s : State} (h : s.ctrl = .halted) : step s = .next s := by
  simp only [step, controllerStep, h]

/-- A drain is due at the start of a RUNNING tick, and in every PAUSED one (R226, R227). -/
theorem step_drains {s : State} (h : s.drainsNext) : step s = .next (drainPhase s) := by
  obtain ⟨hctrl, hphase⟩ | hctrl := h
  · simp only [step, controllerStep, hctrl, runningStep, hphase]
  · simp only [step, controllerStep, hctrl]

/-- The timer phase of a RUNNING tick (R226). -/
theorem step_timer {s : State} (hctrl : s.ctrl = .running) (hphase : s.phase = .timer) :
    step s = .next ((timerStep s).setPhase .render) := by
  simp only [step, controllerStep, hctrl, runningStep, hphase]

/-- The render hand-off of a RUNNING tick (R226). -/
theorem step_render {s : State} (hctrl : s.ctrl = .running) (hphase : s.phase = .render) :
    step s = .next (s.setPhase .drain) := by
  simp only [step, controllerStep, hctrl, runningStep, hphase]

/-- What a step is: nothing when HALTED, a drain, a cycle, the timer step or the render hand-off (R226, R227, R229). -/
theorem step_cases (s : State) :
    (s.ctrl = .halted ∧ step s = .next s) ∨
    (s.drainsNext ∧ step s = .next (drainPhase s)) ∨
    (s.ctrl = .running ∧ ∃ k, s.phase = .execute k) ∨
    (s.ctrl = .running ∧ s.phase = .timer ∧ step s = .next ((timerStep s).setPhase .render)) ∨
    (s.ctrl = .running ∧ s.phase = .render ∧ step s = .next (s.setPhase .drain)) := by
  cases hctrl : s.ctrl with
  | halted => exact .inl ⟨rfl, step_halted hctrl⟩
  | paused => exact .inr (.inl ⟨.inr hctrl, step_drains (.inr hctrl)⟩)
  | running =>
    cases hphase : s.phase with
    | drain => exact .inr (.inl ⟨.inl ⟨hctrl, hphase⟩, step_drains (.inl ⟨hctrl, hphase⟩)⟩)
    | execute k => exact .inr (.inr (.inl ⟨rfl, k, rfl⟩))
    | timer => exact .inr (.inr (.inr (.inl ⟨rfl, rfl, step_timer hctrl hphase⟩)))
    | render => exact .inr (.inr (.inr (.inr ⟨rfl, rfl, step_render hctrl hphase⟩)))

/-- EXECUTE always has a next state (R200). -/
theorem exec_next (i : Instr) (s : State) : ∃ t, exec i s = .next t := by
  cases hf : faultOf i s with
  | some f => exact ⟨_, exec_of_fault hf⟩
  | none =>
    obtain ⟨t, ht, -⟩ := exec_completes hf
    exact ⟨t, ht⟩

/-- A cycle always has a next state (R200). -/
theorem step_cycle_next {s : State} {k : Nat} (hctrl : s.ctrl = .running) (hphase : s.phase = .execute k) :
    ∃ t, step s = .next t := by
  by_cases hpc : s.pc.toNat + 1 < 4096
  · cases hdecode : decode s.opcode with
    | error e => exact ⟨_, step_unimplemented hctrl hphase hpc hdecode⟩
    | ok i =>
      rw [step_decoded hctrl hphase hpc hdecode]
      exact exec_next i _
  · exact ⟨_, step_fetch_fault hctrl hphase hpc⟩

/-- Settles O11: each kind of step has a next state. -/
theorem everyStepHasANextState : Obligations.EveryStepHasANextState := by
  intro s
  obtain ⟨-, h⟩ | ⟨-, h⟩ | ⟨hctrl, k, hphase⟩ | ⟨-, -, h⟩ | ⟨-, -, h⟩ := step_cases s
  case inr.inr.inl => exact step_cycle_next hctrl hphase
  all_goals exact ⟨_, h⟩

/-- The causes of the fatal faults an instruction raises (R201). -/
theorem faultOf_cause {i : Instr} {s : State} {c : HaltCause} {a : Nat} (h : faultOf i s = some (c, a)) :
    c = .stackOverflow ∨ c = .memOutOfRange ∨ c = .keyOutOfRange := by
  cases i
  case call =>
    simp only [faultOf] at h
    split at h <;> cases h
    exact .inl rfl
  case drw | ldB | ldMemVx | ldVxMem => exact .inr (.inl (rangeFault_eq_some h).2.1)
  case skp | sknp => exact .inr (.inr (checkKey_of_keyFault_some h).1)
  all_goals cases h

/-- A cycle moves the tick on and leaves the latch and the requests; it stays RUNNING with the old halt record, or
halts with the record of a fatal fault (R201, R206, R226). -/
theorem step_cycle_keeps {s t : State} {k : Nat} (hctrl : s.ctrl = .running) (hphase : s.phase = .execute k)
    (h : step s = .next t) :
    t.phase = cyclesLeft k ∧ t.key = s.key ∧ t.inputs = s.inputs ∧
      ((t.ctrl = .running ∧ t.halt = s.halt) ∨
      (t.ctrl = .halted ∧ t.halt.shaped = true ∧
        (t.halt.cause = .stackOverflow ∨ t.halt.cause = .memOutOfRange ∨ t.halt.cause = .keyOutOfRange))) := by
  obtain ⟨a, rfl⟩ | rfl | ⟨i, c, a, hf, rfl⟩ | ⟨i, -, hc⟩ := step_cycle_cases hctrl hphase h
  · exact ⟨rfl, rfl, rfl, .inr ⟨rfl, rfl, .inr (.inl rfl)⟩⟩
  · exact ⟨rfl, rfl, rfl, .inl ⟨hctrl, rfl⟩⟩
  · refine ⟨rfl, rfl, rfl, .inr ⟨rfl, ?_, faultOf_cause hf⟩⟩
    obtain rfl | rfl | rfl := faultOf_cause hf <;> rfl
  · obtain ⟨hctrl', hhalt, hkey, hphase', hinputs⟩ := hc.keeps
    exact ⟨hphase', hkey, hinputs, .inl ⟨hctrl'.trans hctrl, hhalt⟩⟩

/-! ### The drain -/

/-- A drain changes the latch, the controller, the halt record, the tick position and the requests alone (R226). -/
theorem drainPhase_onlyDrained (s : State) : OnlyDrained s (drainPhase s) := by
  unfold OnlyDrained drainPhase
  rw [drain_frame]
  rfl

/-- A drain consumes its batch (R226). -/
theorem drainPhase_inputs (s : State) : (drainPhase s).inputs = s.inputs.tail := by
  unfold drainPhase
  rw [drain_frame]
  rfl

/-- After its drain a tick goes on as CTRL says (R226). -/
theorem drainPhase_phase (s : State) : (drainPhase s).phase = afterDrain (drainPhase s).ctrl := rfl

/-- Registers read as before when only what a drain may change does. -/
theorem OnlyDrained.sameRegs {s t : State} (h : OnlyDrained s t) : SameRegs s t := by
  intro r
  rw [OnlyDrained] at h
  rw [h]
  rfl

/-- Bytes read as before when only what a drain may change does. -/
theorem OnlyDrained.sameBytes {s t : State} (h : OnlyDrained s t) : SameBytes s t := by
  intro a
  rw [OnlyDrained] at h
  rw [h]
  rfl

/-- A drain without a quit toggles CTRL once for each toggle and keeps the halt record (R226). -/
theorem drainPhase_toggles {s : State} (h : Request.quit ∉ s.pending) :
    (drainPhase s).ctrl = Ctrl.toggle^[s.pending.count .pauseToggle] s.ctrl ∧ (drainPhase s).halt = s.halt :=
  drain_toggles s.pending (s.setInputs s.inputs.tail) h

/-- A drain with a quit halts with the cause QUIT alone (R228). -/
theorem drainPhase_quits {s : State} (h : Request.quit ∈ s.pending) :
    (drainPhase s).ctrl = .halted ∧ (drainPhase s).halt = ⟨.quit, none, none, none⟩ :=
  drain_quits s.pending (s.setInputs s.inputs.tail) h

/-- After a drain without a quit each key reads what its last event set (R29, R226). -/
theorem drain_pressed {reqs : List Request} (s : State) (q : Key) (h : Request.quit ∉ reqs) :
    (drain reqs s).pressed q = (lastSet q reqs).getD (s.pressed q) := by
  induction reqs generalizing s with
  | nil => rfl
  | cons r rest ih =>
    have hrest : Request.quit ∉ rest := fun hq => h (List.mem_cons_of_mem _ hq)
    cases r with
    | keySet k b =>
      rw [drain, ih _ hrest, State.setKey_pressed, lastSet]
      cases lastSet q rest with
      | some c => rfl
      | none =>
        by_cases hk : k = q
        · simp [hk]
        · simp [hk, Ne.symm hk]
    | pauseToggle => exact ih (s.setCtrl s.ctrl.toggle) hrest
    | quit => exact absurd List.mem_cons_self h

/-- After the drain of a tick without a quit each key reads what its last event set (R29, R226). -/
theorem drainPhase_pressed {s : State} (q : Key) (h : Request.quit ∉ s.pending) :
    (drainPhase s).pressed q = (lastSet q s.pending).getD (s.pressed q) :=
  drain_pressed (s.setInputs s.inputs.tail) q h

/-- A machine that drains next has not halted. -/
theorem drainsNext_not_halted {s : State} (h : s.drainsNext) : s.ctrl ≠ .halted := by
  obtain ⟨hctrl, -⟩ | hctrl := h <;> simp [hctrl]

end Sys2Proof.Machine
end

section
/-!
PROOF. The controller's statements: runs of steps, HALTED and PAUSED, the phases of a tick, the Timer Driver and the
transitions of CTRL (60_exceptions.md R220 to R229).
-/

namespace Sys2Proof.Machine

/-- The first of n + 1 steps. -/
theorem core_run_succ {s t : State} (n : Nat) (h : step s = .next t) :
    Host.Core.run Sys2Proof.core (n + 1) s = Host.Core.run Sys2Proof.core n t := by
  have hcore : Sys2Proof.core.step s = .next t := h
  simp only [Host.Core.run, hcore]

/-- A HALTED machine stays as it is for any number of steps (R229). -/
theorem core_run_halted (n : Nat) {s : State} (h : s.ctrl = .halted) : Host.Core.run Sys2Proof.core n s = .next s := by
  induction n with
  | zero => rfl
  | succ n ih => rw [core_run_succ n (step_halted h), ih]

/-- Settles O12, by induction on the number of steps. -/
theorem haltedIsTerminal : Obligations.HaltedIsTerminal := fun n _ h => core_run_halted n h

/-- CTRL after a drain without a quit (R226). -/
theorem drainPhase_ctrl {s : State} (hs : s.drainsNext) (h : Request.quit ∉ s.pending) :
    (drainPhase s).ctrl = if s.pending.count .pauseToggle % 2 = 0 then s.ctrl
      else if s.ctrl = .running then .paused else .running := by
  rw [(drainPhase_toggles h).1, Ctrl.toggle_iterate _ _ (drainsNext_not_halted hs)]

/-- Settles O19: the drain of a batch with a quit. -/
theorem quitHaltsBeforeTheNextCycle : Obligations.QuitHaltsBeforeTheNextCycle := by
  intro s hs hquit
  obtain ⟨hctrl, hhalt⟩ := drainPhase_quits hquit
  have hframe := drainPhase_onlyDrained s
  exact ⟨_, step_drains hs, hctrl, hhalt, hframe, hframe.sameRegs, hframe.sameBytes⟩

/-- Requests apply in arrival order (R226). -/
theorem drain_append {pre : List Request} (post : List Request) (s : State) (h : Request.quit ∉ pre) :
    drain (pre ++ post) s = drain post (drain pre s) := by
  induction pre generalizing s with
  | nil => rfl
  | cons r rest ih =>
    have hrest : Request.quit ∉ rest := fun hq => h (List.mem_cons_of_mem _ hq)
    cases r with
    | keySet k b => exact ih (s.setKey k b) hrest
    | pauseToggle => exact ih (s.setCtrl s.ctrl.toggle) hrest
    | quit => exact absurd List.mem_cons_self h

/-- Settles O20: the drain up to the quit sets the latch, and the quit ends it. -/
theorem quitDiscardsLaterRequests : Obligations.QuitDiscardsLaterRequests := by
  intro s pre post rest hs hpre hinputs
  have hpending : s.pending = pre ++ .quit :: post := by simp [State.pending, hinputs]
  refine ⟨_, step_drains hs, (drainPhase_quits (by simp [hpending])).1, by simp [drainPhase_inputs, hinputs], ?latch,
    drainPhase_onlyDrained s⟩
  case latch =>
    intro q
    have hkeys : (drainPhase s).pressed q = (drain pre (s.setInputs s.inputs.tail)).pressed q := by
      unfold drainPhase
      rw [hpending, drain_append _ _ hpre]
      rfl
    rw [hkeys, drain_pressed _ q hpre, State.setInputs_pressed]

/-- Settles O21: the drain of a batch without a quit, field by field. -/
theorem drainedKeyEventsSetTheLatch : Obligations.DrainedKeyEventsSetTheLatch := by
  intro s hs hquit
  obtain ⟨hctrl, hhalt⟩ := drainPhase_toggles hquit
  exact ⟨_, step_drains hs, fun q => drainPhase_pressed q hquit, hctrl, drainPhase_phase s, hhalt, drainPhase_inputs s,
    drainPhase_onlyDrained s⟩

/-! ### PAUSED -/

/-- The last setting of a key in two lists of requests is that of the later list, if it has one. -/
theorem lastSet_append (q : Key) (as bs : List Request) :
    lastSet q (as ++ bs) = (lastSet q bs).or (lastSet q as) := by
  induction as with
  | nil => simp [lastSet]
  | cons r rest ih =>
    cases r with
    | keySet k b =>
      rw [List.cons_append, lastSet, lastSet, ih]
      cases lastSet q bs <;> cases lastSet q rest <;> rfl
    | pauseToggle => exact ih
    | quit => exact ih

/-- One drain of a PAUSED tick that stays PAUSED changes the latch and consumes its requests alone (R227). -/
theorem drainPhase_stays_paused {s : State} (hctrl : s.ctrl = .paused) (hphase : s.phase = .drain)
    (hquit : Request.quit ∉ s.pending) (heven : s.pending.count .pauseToggle % 2 = 0) :
    drainPhase s = { s with key := (drainPhase s).key, inputs := s.inputs.tail } := by
  have hctrl' : (drainPhase s).ctrl = s.ctrl := by rw [drainPhase_ctrl (.inr hctrl) hquit, if_pos heven]
  have hphase' : (drainPhase s).phase = s.phase := by rw [drainPhase_phase, hctrl', hctrl, hphase]; rfl
  have hhalt := (drainPhase_toggles hquit).2
  have hframe := drainPhase_onlyDrained s
  rw [OnlyDrained, hctrl', hphase', hhalt, drainPhase_inputs] at hframe
  exact hframe

/-- The batches of the next n + 1 drains are the pending one and those of the n drains after it. -/
theorem flatten_take_inputs (s : State) (n : Nat) :
    (s.inputs.take (n + 1)).flatten = s.pending ++ (s.inputs.tail.take n).flatten := by
  cases h : s.inputs <;> simp [State.pending, h]

/-- Ticks that stay PAUSED change the latch and consume their requests alone (R227). -/
theorem run_stays_paused (n : Nat) (s : State) (hctrl : s.ctrl = .paused) (hphase : s.phase = .drain)
    (hbatches : ∀ batch ∈ s.inputs.take n, Request.quit ∉ batch ∧ batch.count .pauseToggle % 2 = 0) :
    ∃ t : State, Host.Core.run Sys2Proof.core n s = .next t ∧ t = { s with key := t.key, inputs := s.inputs.drop n } ∧
      ∀ q, t.pressed q = (lastSet q (s.inputs.take n).flatten).getD (s.pressed q) := by
  induction n generalizing s with
  | zero => exact ⟨s, rfl, rfl, fun q => rfl⟩
  | succ n ih =>
    have hpending : Request.quit ∉ s.pending ∧ s.pending.count .pauseToggle % 2 = 0 := by
      cases hin : s.inputs with
      | nil => simp [State.pending, hin]
      | cons batch rest => simpa [State.pending, hin] using hbatches batch (by simp [hin])
    obtain ⟨hquit, heven⟩ := hpending
    have hdrain := drainPhase_stays_paused hctrl hphase hquit heven
    have hlater : ∀ batch ∈ s.inputs.tail.take n, Request.quit ∉ batch ∧ batch.count .pauseToggle % 2 = 0 := by
      intro batch hb
      refine hbatches batch ?_
      cases hin : s.inputs with
      | nil => simp [hin] at hb
      | cons _ rest => exact List.mem_cons_of_mem _ (by simpa [hin] using hb)
    have hpressed : ∀ q, (drainPhase s).pressed q = (lastSet q s.pending).getD (s.pressed q) :=
      fun q => drainPhase_pressed q hquit
    have hrun := core_run_succ n (step_drains (.inr hctrl))
    generalize drainPhase s = d at hdrain hpressed hrun
    obtain ⟨t, ht, hframe, hkeys⟩ :=
      ih d (by rw [hdrain, hctrl]) (by rw [hdrain, hphase]) (by rw [hdrain]; exact hlater)
    refine ⟨t, hrun.trans ht, ?_, fun q => ?_⟩
    · rw [hframe, hdrain]
      simp
    · rw [hkeys, hpressed, flatten_take_inputs, lastSet_append, hdrain]
      cases lastSet q (s.inputs.tail.take n).flatten <;> rfl

/-- Settles O13: the even ticks by induction on their number, the odd one as a single drain. -/
theorem pausedTicksFreezeTheMachine : Obligations.PausedTicksFreezeTheMachine := by
  refine ⟨?stays, ?resumes⟩
  case stays =>
    intro n s hctrl hphase hbatches
    obtain ⟨t, ht, hframe, hkeys⟩ := run_stays_paused n s hctrl hphase hbatches
    have honly : OnlyDrained s t := by
      rw [OnlyDrained, hframe]
    exact ⟨t, ht, hframe, honly.sameRegs, honly.sameBytes, hkeys⟩
  case resumes =>
    intro s hctrl hquit hodd
    have hctrl' : (drainPhase s).ctrl = .running := by
      rw [drainPhase_ctrl (.inr hctrl) hquit, if_neg (by omega), hctrl]
      rfl
    have honly := drainPhase_onlyDrained s
    have hframe : drainPhase s =
        { s with key := (drainPhase s).key, ctrl := .running, phase := .execute 11, inputs := s.inputs.tail } := by
      have h := honly
      rw [OnlyDrained, drainPhase_phase, hctrl', (drainPhase_toggles hquit).2, drainPhase_inputs] at h
      exact h
    refine ⟨_, step_drains (.inr hctrl), by rw [hframe], hframe, honly.sameRegs, honly.sameBytes, ?_⟩
    exact fun q => drainPhase_pressed q hquit

/-! ### The tick -/

/-- After its drain a tick that is RUNNING has its 12 cycles to run (R226). -/
theorem drainPhase_phase_running {s : State} (h : (drainPhase s).ctrl = .running) :
    (drainPhase s).phase = .execute 11 := by
  rw [drainPhase_phase, h]
  rfl

/-- A drain without a quit or a toggle leaves CTRL (R226). -/
theorem drainPhase_ctrl_same {s : State} (hquit : Request.quit ∉ s.pending)
    (htoggle : Request.pauseToggle ∉ s.pending) : (drainPhase s).ctrl = s.ctrl := by
  rw [(drainPhase_toggles hquit).1, List.count_eq_zero.mpr htoggle]
  rfl

/-- Cycles that do not halt end at the timer phase with the latch and the requests as they were (R226). -/
theorem run_cycles (k : Nat) (s t : State) (hctrl : s.ctrl = .running) (hphase : s.phase = .execute k)
    (hrun : Host.Core.run Sys2Proof.core (k + 1) s = .next t) (ht : t.ctrl = .running) :
    t.phase = .timer ∧ t.key = s.key ∧ t.inputs = s.inputs := by
  induction k generalizing s with
  | zero =>
    obtain ⟨u, hu⟩ := step_cycle_next hctrl hphase
    obtain rfl : u = t := Host.Outcome.next.inj ((core_run_succ 0 hu).symm.trans hrun)
    obtain ⟨hphase', hkey, hinputs, -⟩ := step_cycle_keeps hctrl hphase hu
    exact ⟨hphase', hkey, hinputs⟩
  | succ k ih =>
    obtain ⟨u, hu⟩ := step_cycle_next hctrl hphase
    rw [core_run_succ (k + 1) hu] at hrun
    obtain ⟨hphase', hkey, hinputs, ⟨hctrl', -⟩ | ⟨hctrl', -⟩⟩ := step_cycle_keeps hctrl hphase hu
    · obtain ⟨htimer, hkey', hinputs'⟩ := ih u hctrl' hphase' hrun
      exact ⟨htimer, hkey'.trans hkey, hinputs'.trans hinputs⟩
    · obtain rfl : u = t := Host.Outcome.next.inj ((core_run_halted _ hctrl').symm.trans hrun)
      exact absurd (hctrl'.symm.trans ht) (by decide)

/-- Settles O14: the drain of keys alone, the cycles by induction on their number, then one step each. -/
theorem tickRunsItsCyclesThenTheTimer : Obligations.TickRunsItsCyclesThenTheTimer := by
  refine ⟨?drain, run_cycles, ?timer, ?render⟩
  case drain =>
    intro s hctrl hphase hkeys
    have hdrains : s.drainsNext := .inl ⟨hctrl, hphase⟩
    have hquit : Request.quit ∉ s.pending := fun h => by simpa using hkeys _ h
    have htoggle : Request.pauseToggle ∉ s.pending := fun h => by simpa using hkeys _ h
    have hctrl' := (drainPhase_ctrl_same hquit htoggle).trans hctrl
    exact ⟨_, step_drains hdrains, hctrl', drainPhase_phase_running hctrl', drainPhase_onlyDrained s⟩
  case timer => exact fun s hctrl hphase => ⟨_, step_timer hctrl hphase, rfl⟩
  case render => exact fun s hctrl hphase => step_render hctrl hphase

/-- A drain leaves the timers (R226). -/
theorem drainPhase_timers (s : State) : (drainPhase s).dt = s.dt ∧ (drainPhase s).st = s.st := by
  have h := drainPhase_onlyDrained s
  rw [OnlyDrained] at h
  rw [h]
  exact ⟨rfl, rfl⟩

/-- The timers change in a cycle of FX15 or FX18 alone (R184, R185). -/
theorem step_cycle_timers {s t : State} {k : Nat} (hctrl : s.ctrl = .running) (hphase : s.phase = .execute k)
    (h : step s = .next t) :
    (t.dt ≠ s.dt → ∃ x, decode s.opcode = .ok (.ldDt x)) ∧ (t.st ≠ s.st → ∃ x, decode s.opcode = .ok (.ldSt x)) := by
  obtain ⟨a, rfl⟩ | rfl | ⟨i, c, a, -, rfl⟩ | ⟨i, hdecode, hc⟩ := step_cycle_cases hctrl hphase h
  case inr.inr.inr =>
    cases hc with
    | delay b writer =>
      obtain ⟨x, rfl⟩ := writer
      exact ⟨fun _ => ⟨x, hdecode⟩, fun hne => absurd rfl hne⟩
    | sound b writer =>
      obtain ⟨x, rfl⟩ := writer
      exact ⟨fun hne => absurd rfl hne, fun _ => ⟨x, hdecode⟩⟩
    | _ => exact ⟨fun hne => absurd rfl hne, fun hne => absurd rfl hne⟩
  all_goals exact ⟨fun hne => absurd rfl hne, fun hne => absurd rfl hne⟩

/-- The timer phase is entered by the last cycle of a tick alone (R226). -/
theorem timer_phase_from {s t : State} (h : step s = .next t) (hctrl : t.ctrl = .running) (hphase : t.phase = .timer) :
    s.ctrl = .running ∧ s.phase = .execute 0 := by
  obtain ⟨hs, hstep⟩ | ⟨-, hstep⟩ | ⟨hs, k, hk⟩ | ⟨-, -, hstep⟩ | ⟨-, -, hstep⟩ := step_cases s
  case inr.inr.inl =>
    obtain ⟨hphase', -⟩ := step_cycle_keeps hs hk h
    rw [hphase] at hphase'
    cases k with
    | zero => exact ⟨hs, hk⟩
    | succ k => cases hphase'
  all_goals cases hstep.symm.trans h
  · exact absurd (hs.symm.trans hctrl) (by decide)
  · exact absurd ((drainPhase_phase_running hctrl).symm.trans hphase) (by decide)
  · cases hphase
  · cases hphase

/-- Settles O15, clause by clause. -/
theorem timerStepDecrementsBothTimers : Obligations.TimerStepDecrementsBothTimers := by
  refine ⟨?timer, ?cycles, fun _ _ => timer_phase_from, ?afterDrain, ?drain, ?render, ?cycle, ?stopped⟩
  case timer =>
    intro s hctrl hphase
    exact ⟨_, step_timer hctrl hphase, countDown_toNat s.dt, countDown_toNat s.st, rfl, fun _ => rfl, fun _ => rfl⟩
  case cycles =>
    intro s t k hctrl hphase h _
    rw [(step_cycle_keeps hctrl hphase h).1]
    cases k <;> rfl
  case afterDrain =>
    intro s t hs h hctrl
    cases (step_drains hs).symm.trans h
    exact ⟨11, drainPhase_phase_running hctrl⟩
  case drain =>
    intro s t hctrl hphase h
    cases (step_drains (.inl ⟨hctrl, hphase⟩)).symm.trans h
    exact drainPhase_timers s
  case render => exact fun s hctrl hphase => step_render hctrl hphase
  case cycle => exact fun s t k hctrl hphase h => step_cycle_timers hctrl hphase h
  case stopped =>
    intro s t hctrl h
    cases hc : s.ctrl with
    | running => exact absurd hc hctrl
    | paused =>
      cases (step_drains (.inr hc)).symm.trans h
      exact drainPhase_timers s
    | halted =>
      cases (step_halted hc).symm.trans h
      exact ⟨rfl, rfl⟩

/-- Settles O16, by induction on the number of Timer Driver steps. -/
theorem timersCountDownToZero : Obligations.TimersCountDownToZero := by
  intro n
  induction n with
  | zero => exact fun s => ⟨rfl, rfl, rfl⟩
  | succ n ih =>
    intro s
    rw [Function.iterate_succ_apply]
    obtain ⟨hdt, hst, hframe⟩ := ih (timerStep s)
    have hdt1 : (timerStep s).dt.toNat = s.dt.toNat - 1 := countDown_toNat s.dt
    have hst1 : (timerStep s).st.toNat = s.st.toNat - 1 := countDown_toNat s.st
    exact ⟨by omega, by omega, hframe⟩

/-! ### Transitions -/

/-- A RUNNING tick has 12 cycles after its drain, any other is over (R226). -/
theorem afterDrain_eq (c : Ctrl) : afterDrain c = if c = .running then .execute 11 else .drain := by
  cases c <;> rfl

/-- A missing program fails (R242). -/
theorem create_missing : State.create .missing = State.loadFailed := rfl

/-- A program that fits is loaded (R241). -/
theorem create_fits {prog : List Byte} (h : prog.length ≤ 3584) : State.create (.bytes prog) = State.loaded prog :=
  if_pos (decide_eq_true h)

/-- An oversized program fails as a whole (R242). -/
theorem create_oversized {prog : List Byte} (h : 3584 < prog.length) :
    State.create (.bytes prog) = State.loadFailed :=
  if_neg (by simpa [programFits] using h)

/-- The step of a cycle whose instruction faults (R206). -/
theorem step_instruction_fault {s : State} {k : Nat} {i : Instr} {c : HaltCause} {a : Nat} (hctrl : s.ctrl = .running)
    (hphase : s.phase = .execute k) (hpc : s.pc.toNat + 1 < 4096) (hdecode : decode s.opcode = .ok i)
    (hf : faultOf i s = some (c, a)) : step s = .next ((s.setPhase (cyclesLeft k)).advance.enterHalted
      ⟨c, some s.pc, some (encode i), some a⟩) := by
  have hf' : faultOf i (s.setPhase (cyclesLeft k)).advance = some (c, a) := by cases i <;> exact hf
  rw [step_decoded hctrl hphase hpc hdecode, exec_of_fault hf', raise, State.advance_pcFetch, State.setPhase_pc]

/-- Settles O17: creation, the drains and the cycles, row by row. -/
theorem controllerTransitions : Obligations.ControllerTransitions := by
  refine ⟨?fits, ?missing, ?oversized, ?toggles, ?quits, ?fetch, ?faults, fun s => step_halted⟩
  case fits =>
    intro prog h
    rw [create_fits h]
    rfl
  case missing => exact ⟨rfl, rfl⟩
  case oversized =>
    intro prog h
    rw [create_oversized h]
    exact ⟨rfl, rfl⟩
  case toggles =>
    intro s hs hquit
    have hctrl := drainPhase_ctrl hs hquit
    exact ⟨_, step_drains hs, (drainPhase_toggles hquit).2, afterDrain_eq _, hctrl⟩
  case quits =>
    intro s hs hquit
    obtain ⟨hctrl, hhalt⟩ := drainPhase_quits hquit
    exact ⟨_, step_drains hs, hctrl, by rw [hhalt]⟩
  case fetch =>
    intro s k hctrl hphase hpc
    exact ⟨_, step_fetch_fault hctrl hphase (by omega), rfl, rfl⟩
  case faults =>
    intro s k i c a hctrl hphase hpc hdecode hf
    exact ⟨_, step_instruction_fault hctrl hphase hpc hdecode hf, rfl, rfl⟩

/-- Settles O18: a drain without a toggle or a quit stays RUNNING, a cycle leaves RUNNING by a fatal fault alone, and
the other steps of a RUNNING machine stay in it. -/
theorem onlyTheseEventsLeaveRunning : Obligations.OnlyTheseEventsLeaveRunning := by
  intro s t h hctrl hleft
  obtain ⟨hs, -⟩ | ⟨hs, hstep⟩ | ⟨hs, k, hk⟩ | ⟨-, -, hstep⟩ | ⟨-, -, hstep⟩ := step_cases s
  · exact absurd (hs.symm.trans hctrl) (by decide)
  · have hphase : s.phase = .drain := by simpa [State.drainsNext, hctrl] using hs
    refine .inl ⟨hphase, ?_⟩
    by_contra hnone
    obtain ⟨htoggle, hquit⟩ := not_or.mp hnone
    cases hstep.symm.trans h
    exact hleft ((drainPhase_ctrl_same hquit htoggle).trans hctrl)
  · obtain ⟨-, -, -, ⟨hrun, -⟩ | ⟨hhalted, -, hcause⟩⟩ := step_cycle_keeps hs hk h
    · exact absurd hrun hleft
    · exact .inr ⟨k, hk, hhalted, hcause⟩
  all_goals
    cases hstep.symm.trans h
    exact absurd hctrl hleft

end Sys2Proof.Machine
end

section
/-!
PROOF. Creation (70_reset_and_hazards.md R240 to R242), memory as canonical data (20_memory.md), and the invariant: it
holds at reset and after creation, and every step keeps it.
-/

namespace Sys2Proof.Machine

/-! ### Creation -/

/-- A byte of a loaded machine: the program's from 0x200 on, the creation byte elsewhere (R51, R241). -/
theorem loaded_readByte {prog : List Byte} {a : Nat} (h : prog.length ≤ 3584) (ha : a < 4096) :
    (State.loaded prog).readByte a =
      if 0x200 ≤ a ∧ a < 0x200 + prog.length then prog.getD (a - 0x200) 0 else creationByte a := by
  have hread := Memory.read_writeBytes State.reset.mem 0x200 a prog (by omega) ha
  rw [show State.reset.mem.read a = creationByte a from Memory.read_empty a ha] at hread
  exact hread

/-- Past the glyph table memory is created as zero (R38). -/
theorem creationByte_above {a : Nat} (h : 80 ≤ a) : creationByte a = 0 :=
  List.getD_eq_default _ _ h

/-- Settles O22: the loaded machine is the one after reset but for the program's bytes. -/
theorem createdMachineState : Obligations.CreatedMachineState := by
  intro prog hprog
  rw [create_fits hprog]
  refine ⟨?regs, rfl, rfl, rfl, ?stack, rfl, rfl, ?keys, ?pixels, rfl, rfl, ?glyphs, ?gap, ?program, ?rest⟩
  case regs => exact fun r => Vector.getElem_replicate r.isLt
  case stack => exact fun k => Vector.getElem_replicate k.isLt
  case keys => exact fun q => Vector.getElem_replicate q.isLt
  case pixels => exact fun x y => fbPixel_fbClear x y
  case glyphs =>
    intro d k hd hk
    rw [loaded_readByte hprog (by omega), if_neg (by omega)]
    interval_cases d <;> interval_cases k <;> rfl
  case gap =>
    intro a hlow hhigh
    rw [loaded_readByte hprog (by omega), if_neg (by omega), creationByte_above hlow]
  case program =>
    intro k hk
    rw [loaded_readByte hprog (by omega), if_pos (by omega), Nat.add_sub_cancel_left]
  case rest =>
    intro a hlow hhigh
    rw [loaded_readByte hprog hhigh, if_neg (by omega), creationByte_above (by omega)]

/-- A missing or oversized program fails (R242). -/
theorem create_fails {src : ProgramSource} (h : src = .missing ∨ ∃ prog, src = .bytes prog ∧ 3584 < prog.length) :
    State.create src = State.loadFailed := by
  obtain rfl | ⟨prog, rfl, hprog⟩ := h
  · exact create_missing
  · exact create_oversized hprog

/-- Settles O23: a failed load is a HALTED machine with memory as created, and HALTED is terminal. -/
theorem failedLoadNeverRuns : Obligations.FailedLoadNeverRuns := by
  intro src hsrc
  rw [create_fails hsrc]
  refine ⟨rfl, rfl, ?bytes, fun n => core_run_halted n rfl⟩
  case bytes =>
    intro a hlow hhigh
    rw [← creationByte_above (a := a) (by omega)]
    exact Memory.read_empty a hhigh

/-! ### Canonical memory -/

/-- A cell of a list in canonical order reads as its own value. -/
theorem readCells_of_mem {cells : List Host.Cell} {c : Host.Cell} (hp : cells.Pairwise (fun c d => c.1 < d.1))
    (hc : c ∈ cells) : readCells cells c.1 = c.2 := by
  induction cells with
  | nil => cases hc
  | cons d rest ih =>
    obtain ⟨hd, hrest⟩ := List.pairwise_cons.mp hp
    obtain rfl | hmem := List.mem_cons.mp hc
    · simp [readCells]
    · have hne : c.1 ≠ d.1 := (hd c hmem).ne'
      simp only [readCells, if_neg hne, ih hrest hmem]

/-- An address that no cell names reads as its creation byte (R38). -/
theorem readCells_of_not_mem {cells : List Host.Cell} {a : Nat} (h : ∀ c ∈ cells, c.1 ≠ a) :
    readCells cells a = creationByte a := by
  induction cells with
  | nil => rfl
  | cons d rest ih =>
    have hne : a ≠ d.1 := (h d List.mem_cons_self).symm
    simp only [readCells, if_neg hne, ih fun c hc => h c (List.mem_cons_of_mem _ hc)]

/-- The cells of a canonical memory are the addresses that differ from creation, each with its byte. -/
theorem mem_cells_iff {m : Memory} (h : m.wf = true) (a : Nat) (v : Byte) :
    (a, v) ∈ m.cells ↔ a < 4096 ∧ m.read a = v ∧ v ≠ creationByte a := by
  obtain ⟨hp, hcells⟩ := (Memory.wf_iff m).mp h
  constructor
  · intro hmem
    obtain ⟨ha, hv⟩ := hcells _ hmem
    refine ⟨ha, ?_, hv⟩
    rw [Memory.read, Nat.mod_eq_of_lt ha, Memory.get]
    exact readCells_of_mem hp hmem
  · rintro ⟨ha, hread, hv⟩
    rw [Memory.read, Nat.mod_eq_of_lt ha, Memory.get] at hread
    by_contra hnone
    refine hv (hread.symm.trans (readCells_of_not_mem ?_))
    rintro c hc rfl
    exact hnone (by rw [← hread, readCells_of_mem hp hc]; exact hc)

/-- Cells of rising addresses are distinct. -/
theorem nodup_of_rising {cells : List Host.Cell} (h : cells.Pairwise (fun c d => c.1 < d.1)) : cells.Nodup :=
  h.imp fun hlt heq => hlt.ne (congrArg Prod.fst heq)

/-- Settles O27: two canonical memories that read alike have the same cells, and rising order makes the lists equal. -/
theorem canonicalMemoriesThatReadAlikeAreEqual : Obligations.CanonicalMemoriesThatReadAlikeAreEqual := by
  intro m n hm hn hread
  have hcells : ∀ c, c ∈ m.cells ↔ c ∈ n.cells := by
    rintro ⟨a, v⟩
    rw [mem_cells_iff hm, mem_cells_iff hn]
    exact and_congr_right fun ha => by rw [hread a ha]
  obtain ⟨hpm, -⟩ := (Memory.wf_iff m).mp hm
  obtain ⟨hpn, -⟩ := (Memory.wf_iff n).mp hn
  have hperm : m.cells.Perm n.cells :=
    (List.perm_ext_iff_of_nodup (nodup_of_rising hpm) (nodup_of_rising hpn)).mpr hcells
  have hlists : m.cells = n.cells := hperm.eq_of_pairwise (fun _ _ _ _ hlt hgt => absurd hgt (lt_asymm hlt)) hpm hpn
  exact congrArg Memory.mk hlists

/-! ### The invariant -/

/-- Settles O24: the state after reset, evaluated. -/
theorem resetMeetsTheInvariant : Obligations.ResetMeetsTheInvariant := by
  unfold Obligations.ResetMeetsTheInvariant
  decide

/-- Settles O25: a loaded machine differs from reset by a run of writes, a failed one is HALTED with its cause. -/
theorem creationMeetsTheInvariant : Obligations.CreationMeetsTheInvariant := by
  intro src
  cases src with
  | missing => rw [create_missing]; decide
  | bytes prog =>
    by_cases hprog : prog.length ≤ 3584
    · rw [create_fits hprog]
      exact ⟨Memory.wf_writeBytes _ _ prog Memory.wf_empty, rfl, rfl, rfl⟩
    · rw [create_oversized (by omega)]; decide

/-- An instruction that completes keeps memory in canonical form (R57). -/
theorem Completes.mem_wf {i : Instr} {s t : State} (h : Completes i s t) (hwf : s.mem.wf = true) : t.mem.wf = true := by
  cases h with
  | stored a bytes => exact Memory.wf_writeBytes _ a bytes hwf
  | _ => exact hwf

/-- A cycle keeps memory in canonical form. -/
theorem step_cycle_mem_wf {s t : State} {k : Nat} (hctrl : s.ctrl = .running) (hphase : s.phase = .execute k)
    (h : step s = .next t) (hwf : s.mem.wf = true) : t.mem.wf = true := by
  obtain ⟨a, rfl⟩ | rfl | ⟨i, c, a, -, rfl⟩ | ⟨i, -, hc⟩ := step_cycle_cases hctrl hphase h
  case inr.inr.inr => exact hc.mem_wf hwf
  all_goals exact hwf

/-- A machine that has not halted has the cause NONE (R32). -/
theorem State.Inv.cause_none {s : State} (h : s.Inv) (hctrl : s.ctrl ≠ .halted) : s.halt.cause = .none := by
  obtain ⟨-, -, hshape, -⟩ := h
  cases hc : s.ctrl <;> simp_all [ctrlShaped]

/-- A drain goes on to a legal tick position (R226). -/
theorem afterDrain_bounded (c : Ctrl) : (afterDrain c).bounded = true := by
  cases c <;> rfl

/-- A cycle goes on to a legal tick position (R226). -/
theorem cyclesLeft_bounded {k : Nat} (h : (Phase.execute k).bounded = true) : (cyclesLeft k).bounded = true := by
  cases k with
  | zero => rfl
  | succ k =>
    have hk : k + 1 < 12 := of_decide_eq_true h
    exact decide_eq_true (Nat.lt_of_succ_lt hk)

/-- HALTED fits every cause but NONE (R32). -/
theorem ctrlShaped_halted {cause : HaltCause} (p : Phase) (h : cause ≠ .none) : ctrlShaped .halted cause p = true :=
  decide_eq_true h

/-- A drain that does not halt leaves CTRL fitting the tick position it goes on to (R226). -/
theorem ctrlShaped_afterDrain {c : Ctrl} (h : c ≠ .halted) : ctrlShaped c .none (afterDrain c) = true := by
  cases c with
  | running | paused => rfl
  | halted => exact absurd rfl h

/-- A drain keeps the invariant: the record is the old one, or that of the quit (R226, R228). -/
theorem drainPhase_inv {s : State} (hs : s.drainsNext) (h : s.Inv) : (drainPhase s).Inv := by
  have hnone := h.cause_none (drainsNext_not_halted hs)
  obtain ⟨hwf, hshaped, -, -⟩ := h
  have hmem : (drainPhase s).mem.wf = true := by
    rw [show (drainPhase s).mem = s.mem by rw [drainPhase_onlyDrained s]]
    exact hwf
  have hrecord : ((drainPhase s).ctrl ≠ .halted ∧ (drainPhase s).halt = s.halt) ∨
      ((drainPhase s).ctrl = .halted ∧ (drainPhase s).halt = ⟨.quit, none, none, none⟩) :=
    drain_ctrl s.pending (s.setInputs s.inputs.tail) (drainsNext_not_halted hs)
  have hbounded : (drainPhase s).phase.bounded = true := afterDrain_bounded _
  obtain ⟨hctrl, hhalt⟩ | ⟨hctrl, hhalt⟩ := hrecord
  · refine ⟨hmem, by rw [hhalt, hshaped], ?_, hbounded⟩
    rw [hhalt, hnone]
    exact ctrlShaped_afterDrain hctrl
  · refine ⟨hmem, by rw [hhalt]; rfl, ?_, hbounded⟩
    rw [hctrl, hhalt]
    exact ctrlShaped_halted _ (by decide)

/-- A cycle keeps the invariant: it stays RUNNING with the old record, or halts with a record of its fault (R206). -/
theorem step_cycle_inv {s t : State} {k : Nat} (hctrl : s.ctrl = .running) (hphase : s.phase = .execute k)
    (hstep : step s = .next t) (h : s.Inv) : t.Inv := by
  have hnone := h.cause_none (by simp [hctrl])
  obtain ⟨hwf, hshaped, -, hbounded⟩ := h
  have hmem := step_cycle_mem_wf hctrl hphase hstep hwf
  obtain ⟨hphase', -, -, hrecord⟩ := step_cycle_keeps hctrl hphase hstep
  have hbounded' : t.phase.bounded = true := by
    rw [hphase']
    exact cyclesLeft_bounded (hphase ▸ hbounded)
  obtain ⟨hctrl', hhalt⟩ | ⟨hctrl', hshaped', hcause⟩ := hrecord
  · refine ⟨hmem, by rw [hhalt, hshaped], ?_, hbounded'⟩
    rw [hctrl', hhalt, hnone]
    rfl
  · refine ⟨hmem, hshaped', ?_, hbounded'⟩
    rw [hctrl']
    exact ctrlShaped_halted _ (by obtain hc | hc | hc := hcause <;> simp [hc])

/-- A RUNNING machine keeps the invariant when memory, CTRL and HALT stay and the tick position is legal. -/
theorem inv_of_running {s t : State} (h : s.Inv) (hctrl : s.ctrl = .running) (hmem : t.mem = s.mem)
    (hctrl' : t.ctrl = s.ctrl) (hhalt : t.halt = s.halt) (hbounded : t.phase.bounded = true) : t.Inv := by
  have hnone := h.cause_none (by simp [hctrl])
  obtain ⟨hwf, hshaped, -, -⟩ := h
  refine ⟨by rw [hmem, hwf], by rw [hhalt, hshaped], ?_, hbounded⟩
  rw [hctrl', hctrl, hhalt, hnone]
  rfl

/-- Settles O26: one kind of step at a time. -/
theorem everyStepKeepsTheInvariant : Obligations.EveryStepKeepsTheInvariant := by
  intro s t h hstep
  obtain ⟨-, hs⟩ | ⟨hdrains, hs⟩ | ⟨hctrl, k, hphase⟩ | ⟨hctrl, -, hs⟩ | ⟨hctrl, -, hs⟩ := step_cases s
  case inr.inr.inl => exact step_cycle_inv hctrl hphase hstep h
  all_goals cases hs.symm.trans hstep
  · exact h
  · exact drainPhase_inv hdrains h
  · exact inv_of_running h hctrl rfl rfl rfl rfl
  · exact inv_of_running h hctrl rfl rfl rfl rfl

end Sys2Proof.Machine
end

section
/-!
PROOF. The display (41_display.md): DXYN on the screen as `spriteOn` says it, its involution, and the framebuffer view.
-/

namespace Sys2Proof.Machine

/-- Byte k of a run of n, and 0 past its end. -/
theorem Memory.readBytes_getD (m : Memory) (a n k : Nat) :
    (m.readBytes a n).getD k 0 = if k < n then m.read (a + k) else 0 := by
  split_ifs with hk
  · rw [List.getD_eq_getElem _ _ (by simpa using hk), Memory.readBytes_getElem]
  · exact List.getD_eq_default _ _ (by simpa using hk)

/-- The drawing loop's sprite bit is the bit of the byte in memory that covers the pixel, on the screen (R101). -/
theorem spriteBit_eq_spriteOn (x y : Reg) (n : Nat) (s : State) (px py : Nat) :
    spriteBit ((s.reg x).toNat % 64) ((s.reg y).toNat % 32) (s.mem.readBytes (s.indexAddr 0) n) px py =
      (decide (px < 64 ∧ py < 32) && spriteOn x y n s px py) := by
  rw [Bool.eq_iff_iff]
  simp only [spriteBit, spriteOn, Memory.readBytes_getD, Bool.and_eq_true, decide_eq_true_eq]
  by_cases hrow : py - (s.reg y).toNat % 32 < n
  · have haddr : s.mem.read (s.indexAddr 0 + (py - (s.reg y).toNat % 32)) =
        s.readByte (s.indexAddr (py - (s.reg y).toNat % 32)) := rfl
    rw [if_pos hrow, haddr]
    refine ⟨fun ⟨h, hbit⟩ => ⟨by omega, by omega, hbit⟩, fun ⟨h, h', hbit⟩ => ⟨by omega, hbit⟩⟩
  · rw [if_neg hrow]
    refine ⟨fun ⟨_, hbit⟩ => ?_, fun ⟨_, h, _⟩ => ?_⟩
    · simp at hbit
    · omega

/-- Pixel (px, py) after a draw (R101). -/
theorem drawSprite_pixel (x y : Reg) (n : Nat) (s : State) {px py : Nat} (hx : px < 64) (hy : py < 32) :
    fbPixel (drawSprite x y n s).1 px py = (s.pixel px py ^^ spriteOn x y n s px py) := by
  have h := (drawRows_spec ((s.reg x).toNat % 64) ((s.reg y).toNat % 32) (s.mem.readBytes (s.indexAddr 0) n) s.fb
    false).1 px py
  rw [spriteBit_eq_spriteOn, decide_eq_true ⟨hx, hy⟩, Bool.true_and] at h
  exact h

/-- The collision of a draw (R101). -/
theorem drawSprite_collision (x y : Reg) (n : Nat) (s : State) : (drawSprite x y n s).2 = true ↔
    ∃ px py, px < 64 ∧ py < 32 ∧ s.pixel px py = true ∧ spriteOn x y n s px py = true := by
  have h := (drawRows_spec ((s.reg x).toNat % 64) ((s.reg y).toNat % 32) (s.mem.readBytes (s.indexAddr 0) n) s.fb
    false).2
  simp only [spriteBit_eq_spriteOn, Bool.and_eq_true, decide_eq_true_eq, Bool.false_eq_true, false_or] at h
  refine h.trans ⟨?_, ?_⟩
  · rintro ⟨px, py, hon, ⟨hx, hy⟩, hsprite⟩
    exact ⟨px, py, hx, hy, hon, hsprite⟩
  · rintro ⟨px, py, hx, hy, hon, hsprite⟩
    exact ⟨px, py, hon, ⟨hx, hy⟩, hsprite⟩

/-- A flag is 1 exactly when its condition holds (R23). -/
theorem flagByte_eq_one {b : Bool} : flagByte b = 1 ↔ b = true := by
  cases b <;> decide

/-- A flag is 0 or 1 (R23). -/
theorem flagByte_cases (b : Bool) : flagByte b = 0 ∨ flagByte b = 1 := by
  cases b
  · exact .inl rfl
  · exact .inr rfl

/-- VF after a draw (R101). -/
theorem spriteDrawn_flag (x y : Reg) (n : Nat) (s : State) : (spriteDrawn x y n s).reg regF = 1 ↔
    ∃ px py, px < 64 ∧ py < 32 ∧ s.pixel px py = true ∧ spriteOn x y n s px py = true := by
  rw [spriteDrawn, State.setReg_reg_self, flagByte_eq_one, drawSprite_collision]

/-- A pixel after a draw (R101). -/
theorem spriteDrawn_pixel (x y : Reg) (n : Nat) (s : State) {px py : Nat} (hx : px < 64) (hy : py < 32) :
    (spriteDrawn x y n s).pixel px py = (s.pixel px py ^^ spriteOn x y n s px py) :=
  drawSprite_pixel x y n s hx hy

/-- Settles O34: the drawing loops as one formula per pixel. -/
theorem drawXorsTheClippedSprite : Obligations.DrawXorsTheClippedSprite := by
  intro x y n s h
  refine ⟨_, exec_drw_ok (rangeFault_eq_none_iff.mpr h), fun px py => spriteDrawn_pixel x y n s,
    spriteDrawn_flag x y n s, ?flag, ?registers, rfl, fun a => rfl⟩
  case flag =>
    rw [spriteDrawn, State.setReg_reg_self]
    exact flagByte_cases _
  case registers =>
    intro r hr
    rw [spriteDrawn, State.setReg_reg, if_neg hr, State.setFb_reg]

/-- A second draw from the same registers draws the same sprite (R101). -/
theorem spriteOn_spriteDrawn {x y : Reg} (n : Nat) {s : State} (hx : (spriteDrawn x y n s).reg x = s.reg x)
    (hy : (spriteDrawn x y n s).reg y = s.reg y) (px py : Nat) :
    spriteOn x y n (spriteDrawn x y n s) px py = spriteOn x y n s px py := by
  simp only [spriteOn, hx, hy]
  rfl

/-- Settles O35: each pixel is toggled twice, and the second draw meets a pixel that is on exactly where the first
turned one on. -/
theorem drawingTwiceRestoresTheScreen : Obligations.DrawingTwiceRestoresTheScreen := by
  intro x y n s t h ht hx hy
  cases (exec_drw_ok (rangeFault_eq_none_iff.mpr h)).symm.trans ht
  have hsprite := spriteOn_spriteDrawn n hx hy
  refine ⟨_, exec_drw_ok (s := spriteDrawn x y n s) (rangeFault_eq_none_iff.mpr h), ?screen, ?flag⟩
  case screen =>
    apply fb_ext
    intro px py hpx hpy
    have htwice := spriteDrawn_pixel x y n (spriteDrawn x y n s) hpx hpy
    rw [spriteDrawn_pixel x y n s hpx hpy, hsprite, Bool.xor_assoc, Bool.xor_self, Bool.xor_false] at htwice
    exact htwice
  case flag =>
    rw [spriteDrawn_flag]
    refine exists_congr fun px => exists_congr fun py => and_congr_right fun hpx => and_congr_right fun hpy => ?_
    rw [hsprite, spriteDrawn_pixel x y n s hpx hpy]
    cases s.pixel px py <;> cases spriteOn x y n s px py <;> decide

/-- Settles O36: the index of a pixel is taken apart by division. -/
theorem framebufferViewIsRowMajor : Obligations.FramebufferViewIsRowMajor := by
  intro s x y hx
  have hcol : (y * 64 + x) % 64 = x := by omega
  have hrow : (y * 64 + x) / 64 = y := by omega
  rw [State.fbView, hcol, hrow]

end Sys2Proof.Machine
end

section
/-!
PROOF. Control flow (42_control.md): BNNN, the skips, CALL and RET, and the key skips (45_timer_input.md).
-/

namespace Sys2Proof.Machine

/-- A conditional skip changes PC alone (R96). -/
theorem onlyPc_skipIf (c : Bool) (s : State) : OnlyPc s (skipIf c s) := by
  rw [skipIf_eq_setPc]
  exact onlyPc_setPc s _

/-- PC after a conditional skip (R96). -/
theorem skipIf_pc (c : Bool) (s : State) : (skipIf c s).pc = if c = true then s.pc + 2 else s.pc := by
  rw [skipIf_eq_setPc, State.setPc_pc]

/-- A skip on equality moves PC exactly when the operands are equal (R113, R115). -/
theorem skipIf_beq_pc (a b : Byte) (s : State) : (skipIf (a == b) s).pc = if a = b then s.pc + 2 else s.pc := by
  simp only [skipIf_pc, beq_iff_eq]

/-- A skip on difference moves PC exactly when the operands differ (R114, R116). -/
theorem skipIf_bne_pc (a b : Byte) (s : State) : (skipIf (a != b) s).pc = if a = b then s.pc else s.pc + 2 := by
  simp only [skipIf_pc, bne_iff_ne, ne_eq, ite_not]

/-- Settles O38: V0 + NNN is below 65536, so the 16-bit sum is the sum of the numbers. -/
theorem jumpV0AddsWithoutMasking : Obligations.JumpV0AddsWithoutMasking := by
  intro nnn s
  refine ⟨s.setPc (targetV0 nnn s), rfl, ?target, onlyPc_setPc s _⟩
  case target =>
    have hv := (s.reg 0).isLt
    have hn := nnn.isLt
    rw [State.setPc_pc, targetV0, zext16, BitVec.toNat_add, BitVec.toNat_setWidth_of_le (by decide),
      BitVec.toNat_setWidth_of_le (by decide)]
    omega

/-- Settles O39: the four skips, and the group decoders for a low nibble other than 0. -/
theorem skipsMovePcByOneWord : Obligations.SkipsMovePcByOneWord := by
  refine ⟨?seImm, ?sneImm, ?seReg, ?sneReg, ?rejected⟩
  case seImm => exact fun x nn s => ⟨_, rfl, skipIf_beq_pc _ _ s, onlyPc_skipIf _ s⟩
  case sneImm => exact fun x nn s => ⟨_, rfl, skipIf_bne_pc _ _ s, onlyPc_skipIf _ s⟩
  case seReg => exact fun x y s => ⟨_, rfl, skipIf_beq_pc _ _ s, onlyPc_skipIf _ s⟩
  case sneReg => exact fun x y s => ⟨_, rfl, skipIf_bne_pc _ _ s, onlyPc_skipIf _ s⟩
  case rejected =>
    intro op hn
    have hn0 : (fieldN op).toNat ≠ 0 := fun h => hn (BitVec.eq_of_toNat_eq h)
    refine ⟨fun hg => ?group5, fun hg => ?group9⟩
    case group5 =>
      have hdecode : decode op = decodeGroup5 op := by rw [decode, hg]; rfl
      rw [hdecode, decodeGroup5]
      split
      · contradiction
      · rfl
    case group9 =>
      have hdecode : decode op = decodeGroup9 op := by rw [decode, hg]; rfl
      rw [hdecode, decodeGroup9]
      split
      · contradiction
      · rfl

/-- Settles O40: the pushed state with PC written. -/
theorem callPushesTheReturnAddress : Obligations.CallPushesTheReturnAddress := by
  intro nnn s h
  refine ⟨_, exec_call_ok (s.push_ok s.pc h), addrNNN_toNat nnn, rfl, ?entry, ?others, rfl, fun _ => rfl,
    fun _ => rfl⟩
  case entry => exact Vector.getElem_set_self h
  case others =>
    intro k hk
    exact Vector.getElem_set_ne h k.isLt (Ne.symm hk)

/-- Settles O41: the popped state with PC written, or the diagnostic. -/
theorem returnPopsOrReportsUnderflow : Obligations.ReturnPopsOrReportsUnderflow := by
  constructor
  case left =>
    intro s h
    exact ⟨_, exec_ret_ok (s.pop_ok h), rfl, rfl, rfl, rfl, fun _ => rfl, fun _ => rfl⟩
  case right =>
    intro s h
    exact ⟨_, exec_ret_underflow (s.pop_empty h), rfl, rfl, fun _ => rfl, fun _ => rfl⟩

/-- Settles O42: the entry popped is the one pushed, wherever the callee stands. -/
theorem callThenReturnRestoresPc : Obligations.CallThenReturnRestoresPc := by
  intro nnn s h
  refine ⟨_, exec_call_ok (s.push_ok s.pc h), fun a => ?_⟩
  refine ⟨_, exec_ret_ok (State.pop_ok _ (Nat.succ_pos _)), ?pc, rfl, rfl, fun _ => rfl, fun _ => rfl⟩
  case pc => exact Vector.getElem_set_self h

/-- The key that a byte naming key k means (R181). -/
theorem keyOf_eq {b : Byte} {k : Key} (h : b.toNat = k.val) : keyOf b = k := by
  apply Fin.ext
  show b.toNat % 16 = k.val
  omega

/-- A byte that names a key raises no fault (R180). -/
theorem keyFault_eq_none {b : Byte} {k : Key} (h : b.toNat = k.val) : keyFault b = none :=
  if_neg (by omega)

/-- Settles O57: the checked index names key VX, and the skip follows its latch. -/
theorem keySkipsFollowTheLatch : Obligations.KeySkipsFollowTheLatch := by
  intro x s k hk
  have hok := keyFault_eq_none hk
  have hkey := keyOf_eq hk
  constructor
  case left =>
    refine ⟨_, exec_skp_ok hok, ?_, onlyPc_skipIf _ s⟩
    rw [hkey, skipIf_pc]
  case right =>
    refine ⟨_, exec_sknp_ok hok, ?_, onlyPc_skipIf _ s⟩
    rw [hkey, skipIf_pc]
    cases s.pressed k <;> rfl

/-! ### Waiting for a key -/

/-- FX0A finds the lowest pressed key (R186). -/
theorem lowestPressed_eq_some {s : State} {k : Key} (hk : s.pressed k = true)
    (hlow : ∀ j : Key, j < k → s.pressed j = false) : lowestPressed s.key = some k := by
  cases h : lowestPressed s.key with
  | none => exact absurd (hk.symm.trans ((lowestPressed_none s.key).mp h k)) (by decide)
  | some j =>
    obtain ⟨hj, hlowj⟩ := lowestPressed_some s.key j h
    obtain hlt | heq | hgt := lt_trichotomy j k
    · exact absurd (hj.symm.trans (hlow j hlt)) (by decide)
    · rw [heq]
    · exact absurd (hk.symm.trans (hlowj k hgt)) (by decide)

/-- A digit or key index below 256 as a byte is that number. -/
theorem byteOf_toNat {n : Nat} (h : n < 256) : (byteOf n).toNat = n := by
  rw [byteOf, BitVec.toNat_ofNat, Nat.mod_eq_of_lt h]

/-- Settles O58: the lowest pressed key, the rewind, and a cycle that advances and rewinds. -/
theorem waitForKeyTakesTheLowestOrRewinds : Obligations.WaitForKeyTakesTheLowestOrRewinds := by
  refine ⟨?takes, ?rewinds, ?waits⟩
  case takes =>
    intro x s k hk hlow
    refine ⟨_, exec_ldVxK_pressed (lowestPressed_eq_some hk hlow), ?_, onlyRegs_setReg s x _⟩
    rw [State.setReg_reg_self, byteOf_toNat (k.isLt.trans (by decide))]
  case rewinds =>
    intro x s hnone
    exact ⟨_, exec_ldVxK_waits ((lowestPressed_none s.key).mpr hnone), rfl, onlyPc_setPc s _⟩
  case waits =>
    intro x s k hctrl hphase hpc hdecode hnone
    have hwait : lowestPressed (s.setPhase (cyclesLeft k)).advance.key = none := (lowestPressed_none s.key).mpr hnone
    rw [step_decoded hctrl hphase hpc hdecode, exec_ldVxK_waits hwait, State.advance_pcFetch]
    rfl

end Sys2Proof.Machine
end

section
/-!
PROOF. Register arithmetic (43_alu.md): 7XNN, the logic, the flag-setting operations and CXNN.
-/

namespace Sys2Proof.Machine

/-- Settles O44: each operation writes VX alone, with the sum or bit by bit. -/
theorem addImmediateAndLogicLeaveVfAlone : Obligations.AddImmediateAndLogicLeaveVfAlone := by
  refine ⟨?add, ?or, ?and, ?xor⟩
  case add =>
    intro x nn s
    refine ⟨_, rfl, ?_, onlyRegs_setReg s x _⟩
    rw [State.setReg_reg_self, BitVec.toNat_add]
  case or =>
    intro x y s
    refine ⟨_, rfl, fun k => ?_, onlyRegs_setReg s x _⟩
    rw [State.setReg_reg_self, BitVec.getLsbD_or]
  case and =>
    intro x y s
    refine ⟨_, rfl, fun k => ?_, onlyRegs_setReg s x _⟩
    rw [State.setReg_reg_self, BitVec.getLsbD_and]
  case xor =>
    intro x y s
    refine ⟨_, rfl, fun k => ?_, onlyRegs_setReg s x _⟩
    rw [State.setReg_reg_self, BitVec.getLsbD_xor]

section FlagOp

variable (flag : Byte → Byte → Bool) (result : Byte → Byte → Byte) (x y : Reg) (s : State)

/-- The result of a flag-setting operation, whichever register X is (R131). -/
theorem flagOp_result : (flagOp .latched flag result x y s).reg x = result (s.reg x) (s.reg y) := by
  rw [flagOp_latched_reg, if_pos rfl]

/-- The flag of a flag-setting operation that does not write its result over it (R131). -/
theorem flagOp_flag (hx : x ≠ regF) :
    (flagOp .latched flag result x y s).reg regF = flagByte (flag (s.reg x) (s.reg y)) := by
  rw [flagOp_latched_reg, if_neg hx.symm, if_pos rfl]

/-- A flag-setting operation changes VX and VF alone (R131). -/
theorem onlyRegs_flagOp : OnlyRegs [x, regF] s (flagOp .latched flag result x y s) := by
  refine ⟨flagOp_frame _ _ _ _ _ _, ?others, fun _ => rfl⟩
  case others =>
    intro r hr
    obtain ⟨hrx, hrF⟩ : r ≠ x ∧ r ≠ regF := by simpa using hr
    rw [flagOp_latched_reg, if_neg hrx, if_neg hrF]

end FlagOp

/-- The number a flag holds (R23). -/
theorem flagByte_toNat (b : Bool) : (flagByte b).toNat = b.toNat := by
  cases b <;> rfl

/-- The carry is the quotient of the exact sum by 256 (R138). -/
theorem flagByte_carry_toNat (a b : Byte) : (flagByte (carry a b)).toNat = (a.toNat + b.toNat) / 256 := by
  have ha := a.isLt
  have hb := b.isLt
  rw [flagByte_toNat, carry, Bool.toNat, Bool.cond_decide]
  split <;> omega

/-- The no-borrow flag (R139). -/
theorem flagByte_noBorrow_toNat (a b : Byte) :
    (flagByte (noBorrow a b)).toNat = if b.toNat ≤ a.toNat then 1 else 0 := by
  rw [flagByte_toNat, noBorrow, Bool.toNat, Bool.cond_decide]

/-- A difference of bytes modulo 256 (R130). -/
theorem sub_toNat (a b : Byte) : (a - b).toNat = (a.toNat + 256 - b.toNat) % 256 := by
  have hb := b.isLt
  rw [BitVec.toNat_sub]
  omega

/-- Settles O45: the three operations by the rules of a flag-setting operation. -/
theorem addAndSubtractSetCarryAndNoBorrow : Obligations.AddAndSubtractSetCarryAndNoBorrow := by
  refine ⟨?add, ?sub, ?subn⟩
  case add =>
    intro x y s
    refine ⟨_, rfl, ?_, fun hx => ?_, onlyRegs_flagOp _ _ x y s⟩
    · rw [flagOp_result, BitVec.toNat_add]
    · rw [flagOp_flag _ _ _ _ _ hx, flagByte_carry_toNat]
  case sub =>
    intro x y s
    refine ⟨_, rfl, ?_, fun hx => ?_, onlyRegs_flagOp _ _ x y s⟩
    · rw [flagOp_result, sub_toNat]
    · rw [flagOp_flag _ _ _ _ _ hx, flagByte_noBorrow_toNat]
  case subn =>
    intro x y s
    refine ⟨_, rfl, ?_, fun hx => ?_, onlyRegs_flagOp _ _ x y s⟩
    · rw [flagOp_result, sub_toNat]
    · rw [flagOp_flag _ _ _ _ _ hx, flagByte_noBorrow_toNat]

/-- The bit 8XY6 shifts out is the remainder by 2 (R140). -/
theorem flagByte_bit0_toNat (a : Byte) : (flagByte (bit0 a)).toNat = a.toNat % 2 := by
  rw [flagByte_toNat, bit0, BitVec.getLsbD, Nat.toNat_testBit, pow_zero, Nat.div_one]

/-- The bit 8XYE shifts out is the quotient by 128 (R142). -/
theorem flagByte_bit7_toNat (a : Byte) : (flagByte (bit7 a)).toNat = a.toNat / 128 := by
  have ha := a.isLt
  rw [flagByte_toNat, bit7, BitVec.getLsbD, Nat.toNat_testBit]
  omega

/-- Settles O46: the two shifts by the rules of a flag-setting operation with VX as both operands. -/
theorem shiftsMoveTheBitOutIntoVf : Obligations.ShiftsMoveTheBitOutIntoVf := by
  refine ⟨?shr, ?shl⟩
  case shr =>
    intro x y s
    refine ⟨_, rfl, ?_, fun hx => ?_, onlyRegs_flagOp _ _ x x s⟩
    · rw [flagOp_result, BitVec.toNat_ushiftRight, Nat.shiftRight_one]
    · rw [flagOp_flag _ _ _ _ _ hx, flagByte_bit0_toNat]
  case shl =>
    intro x y s
    refine ⟨_, rfl, ?_, fun hx => ?_, onlyRegs_flagOp _ _ x x s⟩
    · rw [flagOp_result, BitVec.toNat_shiftLeft, Nat.shiftLeft_eq]
    · rw [flagOp_flag _ _ _ _ _ hx, flagByte_bit7_toNat]

/-- Settles O47: with neither operand VF the flag write leaves both operands; with X = 0xF and VF = 1 the carry 0 is
read as the operand after it. -/
theorem flagOperandModesDifferOnlyAtVf : Obligations.FlagOperandModesDifferOnlyAtVf := by
  constructor
  case left =>
    intro flag result x y s hx hy
    simp only [flagOp, State.setReg_reg, if_neg hx, if_neg hy]
  case right => exact ⟨State.reset.setReg 15 1, by decide⟩

/-- Settles O48: the draw is consumed and VX written; a listed byte is the draw. -/
theorem randomMasksAFreshDraw : Obligations.RandomMasksAFreshDraw := by
  constructor
  case left =>
    intro x nn s
    refine ⟨s.drawn.setReg x (s.nextRand &&& nn), rfl, State.setReg_reg_self _ x _, rfl, ?_, fun _ => rfl, rfl⟩
    intro r hr
    rw [State.setReg_reg, if_neg hr, State.drawn_reg]
  case right =>
    intro x nn b s
    exact ⟨_, rfl, State.setReg_reg_self _ x _, rfl⟩

end Sys2Proof.Machine
end

section
/-!
PROOF. Index register, loads and stores (44_index_memory.md): the arithmetic on I, and the runs of bytes at I.
-/

namespace Sys2Proof.Machine

/-- Settles O50: the 16-bit sum, and a product that stays below 65536. -/
theorem indexArithmeticChangesOnlyI : Obligations.IndexArithmeticChangesOnlyI := by
  constructor
  case left =>
    intro x s
    refine ⟨_, rfl, ?_, onlyIndex_setI s _⟩
    rw [State.setI_i, indexPlus, BitVec.toNat_add, BitVec.toNat_setWidth_of_le (by decide)]
  case right =>
    intro x s
    refine ⟨_, rfl, ?_, onlyIndex_setI s _⟩
    have hx := (s.reg x).isLt
    rw [State.setI_i, glyphAddr, BitVec.toNat_mul, BitVec.toNat_setWidth_of_le (by decide)]
    show (s.reg x).toNat * 5 % 65536 = _
    omega

section Stores

variable {s : State} {bytes : List Byte} (h : s.indexAddr 0 + bytes.length ≤ 4096)
include h

/-- Byte k of a run stored at I (R163, R164). -/
theorem storeAtI_readByte {k : Nat} (hk : k < bytes.length) :
    (s.storeAtI bytes).readByte (s.indexAddr k) = bytes.getD k 0 := by
  have haddr : s.indexAddr k = s.indexAddr 0 + k := rfl
  rw [State.storeAtI, State.setMem_readByte, haddr, Memory.read_writeBytes _ _ _ _ h (by omega), if_pos (by omega),
    Nat.add_sub_cancel_left]

/-- Only the bytes of the run change (R163, R164). -/
theorem onlyStored_storeAtI : OnlyStored (s.indexAddr 0) bytes.length s (s.storeAtI bytes) := by
  refine ⟨rfl, fun _ => rfl, ?others⟩
  case others =>
    intro b hb hout
    rw [State.storeAtI, State.setMem_readByte, Memory.read_writeBytes _ _ _ _ h hb, if_neg hout]
    rfl

end Stores

/-- Settles O51: the three bytes stored are the hundreds, tens and units. -/
theorem storeDecimalDigits : Obligations.StoreDecimalDigits := by
  intro x s h
  have hx := (s.reg x).isLt
  have hlen : s.indexAddr 0 + (decimalDigits (s.reg x)).length ≤ 4096 := h
  have hundreds : ((s.storeAtI (decimalDigits (s.reg x))).readByte (s.indexAddr 0)).toNat = (s.reg x).toNat / 100 := by
    rw [storeAtI_readByte hlen (by simp [decimalDigits])]
    exact byteOf_toNat (by omega)
  have tens : ((s.storeAtI (decimalDigits (s.reg x))).readByte (s.indexAddr 1)).toNat = (s.reg x).toNat / 10 % 10 := by
    rw [storeAtI_readByte hlen (by simp [decimalDigits])]
    exact byteOf_toNat (by omega)
  have units : ((s.storeAtI (decimalDigits (s.reg x))).readByte (s.indexAddr 2)).toNat = (s.reg x).toNat % 10 := by
    rw [storeAtI_readByte hlen (by simp [decimalDigits])]
    exact byteOf_toNat (by omega)
  exact ⟨_, exec_ldB_ok (rangeFault_eq_none h), by omega, by omega, by omega, onlyStored_storeAtI hlen⟩

/-- FX55 stores X + 1 registers (R164). -/
theorem State.regsUpTo_length (s : State) (x : Reg) : (s.regsUpTo x).length = x.val + 1 := by
  rw [State.regsUpTo, List.length_take, Vector.length_toList]
  omega

/-- Byte k of the stored registers is Vk (R164). -/
theorem State.regsUpTo_getD (s : State) {x k : Reg} (hk : k ≤ x) : (s.regsUpTo x).getD k.val 0 = s.reg k := by
  have hlt : k.val < (s.regsUpTo x).length := by
    rw [s.regsUpTo_length]
    exact Nat.lt_succ_of_le hk
  rw [List.getD_eq_getElem _ _ hlt]
  simp [State.regsUpTo, State.reg]

/-- The store of V0..VX at I, register by register (R164). -/
theorem storeRegs_readByte {x k : Reg} {s : State} (h : s.indexAddr 0 + (x.val + 1) ≤ 4096) (hk : k ≤ x) :
    (s.storeAtI (s.regsUpTo x)).readByte (s.indexAddr k.val) = s.reg k := by
  rw [← s.regsUpTo_length x] at h
  rw [storeAtI_readByte h (by rw [s.regsUpTo_length]; exact Nat.lt_succ_of_le hk), s.regsUpTo_getD hk]

/-- Settles O52: the run stored is V0..VX. -/
theorem storeRegistersInOrder : Obligations.StoreRegistersInOrder := by
  intro x s h
  have hstored := onlyStored_storeAtI (s := s) (bytes := s.regsUpTo x) (by rw [s.regsUpTo_length]; exact h)
  rw [s.regsUpTo_length] at hstored
  exact ⟨_, exec_ldMemVx_ok (rangeFault_eq_none h), fun k hk => storeRegs_readByte h hk, hstored⟩

/-- Settles O53: the file loaded, register by register. -/
theorem loadRegistersInOrder : Obligations.LoadRegistersInOrder := by
  intro x s h
  refine ⟨_, exec_ldVxMem_ok (rangeFault_eq_none h), fun k hk => ?_, fun k hk => ?_, rfl, fun _ => rfl⟩
  · rw [State.setRegs_reg, regsFromMem_getElem, if_pos hk]
    rfl
  · rw [State.setRegs_reg, regsFromMem_getElem, if_neg (not_le.mpr hk)]

/-- Settles O54: the bytes loaded are those stored, whatever the registers hold in between. -/
theorem storeThenLoadRestoresRegisters : Obligations.StoreThenLoadRestoresRegisters := by
  intro x s w h
  have hload := exec_ldVxMem_ok (s := (s.storeAtI (s.regsUpTo x)).setRegs w) (rangeFault_eq_none h)
  refine ⟨_, _, exec_ldMemVx_ok (rangeFault_eq_none h), hload, fun k => ⟨?_, ?_⟩⟩
  · intro hk
    rw [State.setRegs_reg, regsFromMem_getElem, if_pos hk]
    exact storeRegs_readByte h hk
  · intro hk
    rw [State.setRegs_reg, regsFromMem_getElem, if_neg (not_le.mpr hk)]
    rfl

/-- Settles O55: a fetch at PC = I reads the bytes of V0 and V1. -/
theorem storedOpcodeIsFetchedNext : Obligations.StoredOpcodeIsFetchedNext := by
  intro x s hx h hpc
  have hfetch : s.pc.toNat + 1 < 4096 := by omega
  have hlow := storeRegs_readByte (k := 0) h (Fin.zero_le x)
  have hhigh := storeRegs_readByte (k := 1) h (Fin.le_def.mpr hx)
  rw [show s.indexAddr (0 : Reg).val = s.pc.toNat from hpc] at hlow
  rw [show s.indexAddr (1 : Reg).val = s.pc.toNat + 1 from congrArg (· + 1) hpc] at hhigh
  refine ⟨_, exec_ldMemVx_ok (rangeFault_eq_none h), ?_⟩
  rw [← hlow, ← hhigh]
  exact fetch16_ok _ _ _ hfetch

end Sys2Proof.Machine
end
